-- ==== Sys2Proof/Word.lean ====
section
/-! DEFINITION. The word types of the core: bytes, and the 32-bit words of the bus, the registers and the command port (00_scope.md R11, R13). -/

namespace Sys2Proof

/-- A byte of a buffer, of KEY or of an algorithm's byte sequence (00_scope.md R12). -/
abbrev Byte := BitVec 8

/-- A 32-bit word: a bus word, a register, a command word, a SHA-1 word (00_scope.md R13). -/
abbrev Word := BitVec 32

end Sys2Proof
end

