-- ==== Sys2Proof/Config.lean ====
section
/-! DEFINITION. What is fixed for the hardware: the parameters of 00_scope.md R8 and R9, the identity constants, and the free values (the `draw` of 00_scope.md R17). -/

namespace Sys2Proof.Config

open Sys2Proof

/-- KEY_BYTES, the AES-256 key size (00_scope.md R8). -/
@[simp] abbrev keyBytes : Nat := 32

/-- BLOCK_BYTES, the AES block size (00_scope.md R8). -/
@[simp] abbrev blockBytes : Nat := 16

/-- HASH_BYTES, the SHA-1 digest size (00_scope.md R8). -/
@[simp] abbrev hashBytes : Nat := 20

/-- PAD_MAX; PAD_MIN is 1 (00_scope.md R8). -/
@[simp] abbrev padMax : Nat := 16

/-- PASS_MAX, the size of the passphrase buffer (00_scope.md R9). -/
@[simp] abbrev passMax : Nat := 64

/-- SALT_MAX, the size of the salt buffer (00_scope.md R9). -/
@[simp] abbrev saltMax : Nat := 64

/-- DKLEN_MAX = KEY_BYTES, the largest legal DKLEN (00_scope.md R9). -/
@[simp] abbrev dklenMax : Nat := 32

/-- The default of the parameter DATA_BYTES (00_scope.md R9). -/
@[simp] abbrev defaultDataBytes : Nat := 4096

/-- The legal values of the parameter DATA_BYTES: a multiple of 16, at least 16, at most 2^31 (00_scope.md R9). -/
abbrev legalDataBytes (n : Nat) : Prop := n % 16 = 0 ∧ 16 ≤ n ∧ n ≤ 2 ^ 31

/-- ADDR_BITS: the least n with 2^n >= 0x1000 + DATA_BYTES (00_scope.md R9), computed as one more than the
logarithm of the number below it. -/
def addrBits (dataBytes : Nat) : Nat := Nat.log2 (0x1000 + dataBytes - 1) + 1

/-- The size of the window in bytes, 2^ADDR_BITS (10_state.md R23). -/
def windowBytes (dataBytes : Nat) : Nat := 2 ^ addrBits dataBytes

/-- The hardwired value of ID, "T2SC" (10_state.md R24). -/
@[simp] abbrev idValue : Word := 0x54325343

/-- The hardwired value of VERSION, major 1, minor 0 (10_state.md R25). -/
@[simp] abbrev versionValue : Word := 0x00010000

/-- FREE VALUE (DESIGN CHOICE of its form, log 3; safe). What the n-th read of a drawn register while Busy returns: the
`draw` of 20_memory.md R70. No body: nothing constrains it. -/
opaque readDraw : Nat → Word

/-- FREE VALUE (DESIGN CHOICE of its form, log 4; safe). What the buffer byte at a window offset holds after the n-th reset
until it is written: the `draw` of 70_reset_and_hazards.md R183. No body: nothing constrains it. -/
opaque bufferDraw : Nat → Nat → Byte

end Sys2Proof.Config
end

