-- ==== Sys2Proof/Syntax.lean ====
section
/-! DEFINITION. The commands: one constructor for each row of spec/opcode_table.json. -/

namespace Sys2Proof

/-- A command of the core (30_encoding.md R82, R83). A command word carries no operand: the operands are fixed registers
and buffers (30_encoding.md R85). -/
inductive Instr where
  /-- DERIVE, 0x00000001 (40_key_deriver.md R112). -/
  | derive
  /-- DECRYPT, 0x00000002 (41_block_decryptor.md R136). -/
  | decrypt
  /-- DECRYPT_FINAL, 0x00000003 (41_block_decryptor.md R138). -/
  | decryptFinal
  /-- UNPAD, 0x00000004 (42_padding_validator.md R147). -/
  | unpad
  /-- ILLEGAL: any other word v, kept so that encoding gives it back (60_exceptions.md R158; log 13). -/
  | illegal (v : Word)
deriving DecidableEq, Repr

end Sys2Proof
end

