-- ==== Sys2Proof/WellFormed.lean ====
section
/-! DEFINITION. Which terms of `Instr` are instructions: an ILLEGAL term holds a word that spells no command. -/

namespace Sys2Proof

/-- The four words that spell a command (30_encoding.md R82, R83: "Exactly four words decode to a command"). -/
def commandWords : List Word := [0x00000001, 0x00000002, 0x00000003, 0x00000004]

/-- A command is always well-formed; `illegal v` is, when v is not one of the four command words
(30_encoding.md R83; log 13). -/
def Instr.wellFormed : Instr → Bool
  | .derive => true
  | .decrypt => true
  | .decryptFinal => true
  | .unpad => true
  | .illegal v => !commandWords.contains v

end Sys2Proof
end

