-- ==== Sys2Proof/Decode.lean ====
section
/-! DEFINITION. The decoder of command words, the byte and table forms of it, and the encoder (30_encoding.md R81 to R84). -/

namespace Sys2Proof

/-- OP, bits [7:0] of a command word (30_encoding.md R81). -/
def opField (v : Word) : BitVec 8 := v.extractLsb' 0 8

/-- RSV, bits [31:8] of a command word (30_encoding.md R81). -/
def rsvField (v : Word) : BitVec 24 := v.extractLsb' 8 24

/-- `decode(v)`, in the order of 30_encoding.md R83; total on all 2^32 words. -/
def decode (v : Word) : Instr :=
  if rsvField v ≠ 0 then .illegal v
  else if opField v = 0x01 then .derive
  else if opField v = 0x02 then .decrypt
  else if opField v = 0x03 then .decryptFinal
  else if opField v = 0x04 then .unpad
  else .illegal v

/-- Why a byte string is no command word: a command is one 32-bit word, delivered whole (30_encoding.md R81). -/
inductive DecodeError where
  /-- The string does not have exactly four bytes. -/
  | notOneWord
deriving DecidableEq, Repr

/-- The word whose bytes, lowest offset first, are b0, b1, b2, b3 (20_memory.md R63). -/
def wordOfBytes (b0 b1 b2 b3 : Byte) : Word :=
  b0.setWidth 32 ||| (b1.setWidth 32 <<< 8) ||| (b2.setWidth 32 <<< 16) ||| (b3.setWidth 32 <<< 24)

/-- The decoder on any byte string: four bytes are one word in the bus's byte order, any other length is rejected by
name (30_encoding.md R81; 20_memory.md R63, R66; log 15). -/
def decodeBytes : List Byte → Except DecodeError Instr
  | [b0, b1, b2, b3] => .ok (decode (wordOfBytes b0 b1 b2 b3))
  | _ => .error .notOneWord

/-- The word that spells an instruction (30_encoding.md R82). -/
def encode : Instr → Word
  | .derive => 0x00000001
  | .decrypt => 0x00000002
  | .decryptFinal => 0x00000003
  | .unpad => 0x00000004
  | .illegal v => v

/-- The bytes of an instruction's word as the bus lays them out, lowest offset first (20_memory.md R63). -/
def encodeBytes (i : Instr) : List Byte :=
  [(encode i).extractLsb' 0 8, (encode i).extractLsb' 8 8, (encode i).extractLsb' 16 8, (encode i).extractLsb' 24 8]

/-- The command word of an opcode-table row whose nbits bits are w: every command is one 32-bit word (30_encoding.md R81),
so the bits above nbits are 0. -/
def tableWord (nbits w : Nat) : Word := BitVec.ofNat 32 (w % 2 ^ nbits)

/-- The instruction the decoder reads from a row of spec/opcode_table.json whose nbits bits are w. A row longer than one
word is none: every command has one length (30_encoding.md R81). -/
def decodeTableWord (nbits w : Nat) : Option Instr :=
  if nbits ≤ 32 then
    let v := tableWord nbits w
    match decodeBytes [v.extractLsb' 0 8, v.extractLsb' 8 8, v.extractLsb' 16 8, v.extractLsb' 24 8] with
    | .ok i => some i
    | .error _ => none
  else none

end Sys2Proof
end

