-- ==== Sys2Proof/Machine/State.lean ====
section
/-! DEFINITION. The state of the core as plain data, the reasons a step can stop, and the state after reset (10_state.md, 70_reset_and_hazards.md R181). -/

namespace Sys2Proof.Machine

open Sys2Proof

/-- The buffer memory: (window offset, byte) pairs, addresses strictly rising. An offset that is not listed has not been
written since the last reset: the list gives it no value, and a read of it is the draw of 70_reset_and_hazards.md R183
(`State.byteAt`; log 4). -/
abbrev Memory := List Host.Cell

/-- The size of a bus transaction: 1, 2 or 4 bytes (10_state.md R53). -/
inductive BusSize where
  | byte
  | half
  | word
deriving DecidableEq, Repr

/-- A host transaction on the bus port: kind, offset, size and write data (10_state.md R53). -/
inductive Transaction where
  /-- A read of `size` at byte offset `off`. -/
  | read (off : Nat) (size : BusSize)
  /-- A write of `v` with `size` at byte offset `off`. -/
  | write (off : Nat) (size : BusSize) (v : Word)
deriving DecidableEq, Repr

/-- The byte offset a transaction names. -/
def Transaction.off : Transaction → Nat
  | .read off _ => off
  | .write off _ _ => off

/-- A host access as the platform sees it, at an address of the host's address space (20_memory.md R71; log 10). -/
inductive Access where
  /-- A read of `size` at address `addr`. -/
  | read (addr : Nat) (size : BusSize)
  /-- A write of `v` with `size` at address `addr`. -/
  | write (addr : Nat) (size : BusSize) (v : Word)
deriving DecidableEq, Repr

/-- The address an access names. -/
def Access.addr : Access → Nat
  | .read addr _ => addr
  | .write addr _ _ => addr

/-- One input of the machine: what moves next (log 1). -/
inductive InputEvent where
  /-- A host transaction at the core's port, by offset (00_scope.md R10; 10_state.md R53). -/
  | host (t : Transaction)
  /-- A host access by address: the core answers it when it falls in the window at BASE (20_memory.md R71; log 10). -/
  | access (a : Access)
  /-- A turn of the engine: a Busy engine completes its command (60_exceptions.md R164). -/
  | engine
  /-- The reset event (70_reset_and_hazards.md R178). -/
  | reset
deriving DecidableEq, Repr

/-- The response of the bus port (10_state.md R53). -/
inductive Resp where
  | okay
  | error
deriving DecidableEq, Repr

/-- What the port returns to a transaction: the response and, for a read, the data (10_state.md R53; log 6). -/
structure BusResponse where
  resp : Resp
  rdata : Option Word
deriving DecidableEq, Repr

/-- The result codes a command can complete with (60_exceptions.md R155). -/
inductive ResultCode where
  | ok
  | invalidParameters
  | invalidKeyLength
  | invalidCiphertextLength
  | paddingError
  | illegalCommand
deriving DecidableEq, Repr

/-- The defined words of the register window (10_state.md R23). -/
inductive Reg where
  | id
  | version
  | ctrl
  | cmd
  | status
  | passLen
  | saltLen
  | iter
  | dklen
  | keylen
  | dataLen
  | outLen
  | padLen
  | progress
  /-- KEYj. -/
  | key (j : Fin 8)
  /-- PASSj. -/
  | pass (j : Fin 16)
  /-- SALTj. -/
  | salt (j : Fin 16)
  /-- DATAj; it exists when 4j < DATA_BYTES. -/
  | data (j : Nat)
deriving DecidableEq, Repr

/-- Why the machine stops with a fault. -/
inductive Fault where
  /-- Raised by the bus (`State.busTransaction`) on a transaction whose offset does not fit the port's ADDR_BITS bits
  (10_state.md R53): no host can present it (log 8). SAFE: nothing is claimed of the hardware there. -/
  | offsetOutsideWindow
deriving DecidableEq, Repr

/-- Why the machine refuses an instruction. -/
inductive Refusal where
  /-- Answered by an arm of `exec` that has no meaning yet. No arm answers it now. SAFE. -/
  | notModelled (mnemonic : String)
deriving DecidableEq, Repr

/-- The state of the core: the state of 10_state.md R54, and the model's own fields last. -/
structure State where
  /-- CTRL, two bits (10_state.md R26). -/
  ctrl : BitVec 2
  /-- STATUS.DONE (10_state.md R29). -/
  done : Bool
  /-- STATUS.CMD_OVF (10_state.md R30). -/
  cmdOvf : Bool
  /-- STATUS.WR_BUSY (10_state.md R31). -/
  wrBusy : Bool
  /-- STATUS.ERRCODE (10_state.md R32). -/
  errcode : BitVec 4
  /-- PCMD, the pending command; STATUS.BUSY is derived from it (10_state.md R50). -/
  pcmd : Option Word
  /-- PASS_LEN (10_state.md R34). -/
  passLen : BitVec 8
  /-- SALT_LEN (10_state.md R35). -/
  saltLen : BitVec 8
  /-- ITER (10_state.md R36). -/
  iter : Word
  /-- DKLEN (10_state.md R37). -/
  dklen : BitVec 8
  /-- KEYLEN (10_state.md R38). -/
  keylen : BitVec 8
  /-- DATA_LEN (10_state.md R39). -/
  dataLen : Word
  /-- OUT_LEN (10_state.md R40). -/
  outLen : Word
  /-- PAD_LEN (10_state.md R41). -/
  padLen : BitVec 8
  /-- PROGRESS (10_state.md R42). -/
  progress : Word
  /-- KEY[0..32) (10_state.md R43). -/
  key : Vector Byte 32
  /-- PASS, SALT and DATA, keyed by window offset (10_state.md R44 to R46). -/
  mem : Memory
  /-- MODEL: the parameter DATA_BYTES, which no step changes (00_scope.md R9; log 5). -/
  dataBytes : Nat
  /-- MODEL: the platform parameter BASE, the address of the window in the host's address space, which no step changes
  (20_memory.md R71; log 10). -/
  base : Nat
  /-- MODEL: what the port returned to the last transaction since reset (10_state.md R53; log 6). -/
  response : Option BusResponse
  /-- MODEL: the inputs still to come, next first (log 1). -/
  pending : List InputEvent
  /-- MODEL: how many read draws have been consumed (20_memory.md R70; log 3). -/
  drawIndex : Nat
  /-- MODEL: how many resets have happened since power-on (70_reset_and_hazards.md R183; log 4). -/
  resetIndex : Nat
deriving DecidableEq, Repr

/-- The state right after power-on reset (70_reset_and_hazards.md R181). The buffers list nothing: every byte of them is a
draw (R183). The model's own fields start at values of the model's choosing (DESIGN CHOICE, log 7), DATA_BYTES at the
spec's default (log 5), BASE at 0 (DESIGN CHOICE: the spec gives it no value, log 10). -/
def State.reset : State where
  ctrl := 0b01
  done := false
  cmdOvf := false
  wrBusy := false
  errcode := 0
  pcmd := none
  passLen := 0
  saltLen := 0
  iter := 0
  dklen := 0
  keylen := 0
  dataLen := 0
  outLen := 0
  padLen := 0
  progress := 0
  key := Vector.replicate 32 0
  mem := []
  dataBytes := Config.defaultDataBytes
  base := 0
  response := none
  pending := []
  drawIndex := 0
  resetIndex := 0

end Sys2Proof.Machine
end

