-- ==== Sys2Proof/Machine/Bytes.lean ====
section
/-! DEFINITION. The word operators and byte-order conversions of 00_scope.md R13 and R14. -/

namespace Sys2Proof.Machine

open Sys2Proof

/-- `le32`: byte 0 is in bits [7:0] (00_scope.md R14; 20_memory.md R63). -/
def le32 (b0 b1 b2 b3 : Byte) : Word := wordOfBytes b0 b1 b2 b3

/-- Bits [8k+7:8k] of a word: the byte of little-endian lane k (20_memory.md R63). -/
def lane (v : Word) (k : Nat) : Byte := v.extractLsb' (8 * k) 8

/-- `le32bytes` (00_scope.md R14). -/
def le32bytes (v : Word) : List Byte := [lane v 0, lane v 1, lane v 2, lane v 3]

/-- `be32`: byte 0 is the most significant (00_scope.md R14). -/
def be32 (b0 b1 b2 b3 : Byte) : Word := wordOfBytes b3 b2 b1 b0

/-- `be32bytes`, most significant byte first (00_scope.md R14). -/
def be32bytes (v : Word) : List Byte := [lane v 3, lane v 2, lane v 1, lane v 0]

/-- `be64bytes(n)`, the 8-byte big-endian encoding of n < 2^64 (00_scope.md R14). -/
def be64bytes (n : Nat) : List Byte := be32bytes (BitVec.ofNat 32 (n / 2 ^ 32)) ++ be32bytes (BitVec.ofNat 32 n)

/-- `rotl32(a, n)` for 0 < n < 32 (00_scope.md R13). -/
def rotl32 (a : Word) (n : Nat) : Word := (a <<< n) ||| (a >>> (32 - n))

/-- `xor(A, B)`, byte-wise, of two sequences of equal length (00_scope.md R13). -/
def xorBytes (a b : List Byte) : List Byte := List.zipWith (· ^^^ ·) a b

/-- `bytes(n, v)`, n bytes each equal to v (00_scope.md R12). -/
def bytesOf (n : Nat) (v : Byte) : List Byte := List.replicate n v

end Sys2Proof.Machine
end

