-- ==== Sys2Proof/Machine/Flags.lean ====
section
/-! DEFINITION. The flags: STATUS.BUSY, the STATUS word, the result codes, the fields of CTRL, the interrupt level (10_state.md R26 to R33, R49, R52; 60_exceptions.md R155, R167). -/

namespace Sys2Proof.Machine

open Sys2Proof

/-- The value of STATUS.ERRCODE for a result code (60_exceptions.md R155). -/
def ResultCode.code : ResultCode → BitVec 4
  | .ok => 0
  | .invalidParameters => 1
  | .invalidKeyLength => 2
  | .invalidCiphertextLength => 3
  | .paddingError => 4
  | .illegalCommand => 5

/-- STATUS.BUSY: 1 exactly when PCMD is non-empty (10_state.md R28, R50). -/
def State.busy (s : State) : Bool := s.pcmd.isSome

/-- CTRL.STRICT_PAD, bit 0 (10_state.md R26). -/
def State.strictPad (s : State) : Bool := s.ctrl.getLsbD 0

/-- CTRL.IRQ_EN, bit 1 (10_state.md R26). -/
def State.irqEn (s : State) : Bool := s.ctrl.getLsbD 1

/-- The interrupt output: the level CTRL.IRQ_EN & STATUS.DONE (10_state.md R52; 60_exceptions.md R167). -/
def State.irq (s : State) : Bool := s.irqEn && s.done

/-- The word a read of STATUS returns: `ERRCODE << 8 | WR_BUSY << 3 | CMD_OVF << 2 | DONE << 1 | BUSY` (10_state.md R33). -/
def State.statusWord (s : State) : Word :=
  (s.errcode.setWidth 32 <<< 8) ||| ((BitVec.ofBool s.wrBusy).setWidth 32 <<< 3)
    ||| ((BitVec.ofBool s.cmdOvf).setWidth 32 <<< 2) ||| ((BitVec.ofBool s.done).setWidth 32 <<< 1)
    ||| (BitVec.ofBool s.busy).setWidth 32

/-- A host write of v to STATUS: write-1-to-clear of DONE, CMD_OVF and WR_BUSY, every other bit ignored
(10_state.md R28 to R33). It is the acknowledgement of a completion (60_exceptions.md R169). -/
def State.writeStatus (s : State) (v : Word) : State :=
  { s with
    done := s.done && !v.getLsbD 1
    cmdOvf := s.cmdOvf && !v.getLsbD 2
    wrBusy := s.wrBusy && !v.getLsbD 3 }

end Sys2Proof.Machine
end

