-- ==== Sys2Proof/Machine/Ops.lean ====
section
/-! DEFINITION. The shared operations: the buffer memory, the register map, reading and writing a register, acceptance and completion of a command (the entry and return of this core), and the reset event. -/

namespace Sys2Proof.Machine

open Sys2Proof

/-! The buffer memory -/

/-- Offset of PASS[0] (10_state.md R44). -/
@[simp] abbrev passBase : Nat := 0x080

/-- Offset of SALT[0] (10_state.md R45). -/
@[simp] abbrev saltBase : Nat := 0x0C0

/-- Offset of DATA[0] (10_state.md R46). -/
@[simp] abbrev dataBase : Nat := 0x1000

/-- Offset of KEY[0] (10_state.md R43). -/
@[simp] abbrev keyBase : Nat := 0x040

/-- The byte a memory lists at an address; none where nothing has been written since reset. -/
def Memory.read? : Memory → Nat → Option Byte
  | [], _ => none
  | (a, b) :: m, x => if a = x then some b else Memory.read? m x

/-- One byte written, in its place in the rising order. -/
def Memory.write : Memory → Nat → Byte → Memory
  | [], x, v => [(x, v)]
  | (a, b) :: m, x, v =>
    if x < a then (x, v) :: (a, b) :: m
    else if x = a then (a, v) :: m
    else (a, b) :: Memory.write m x v

/-- A byte sequence written at consecutive addresses from x on. -/
def Memory.writeBytes (m : Memory) (x : Nat) : List Byte → Memory
  | [] => m
  | v :: vs => Memory.writeBytes (m.write x v) (x + 1) vs

/-- The canonical form: addresses strictly rising. An unlisted address has no value of its own, so no entry can equal it. -/
def Memory.wf : Memory → Bool
  | [] => true
  | [_] => true
  | (a, _) :: (a', b') :: m => decide (a < a') && Memory.wf ((a', b') :: m)

/-- An offset of a byte of PASS, SALT or DATA (10_state.md R23). -/
def isBufferOffset (dataBytes x : Nat) : Bool :=
  (decide (passBase ≤ x) && decide (x < passBase + Config.passMax))
    || (decide (saltBase ≤ x) && decide (x < saltBase + Config.saltMax))
    || (decide (dataBase ≤ x) && decide (x < dataBase + dataBytes))

/-- Every listed address is a byte of a buffer. -/
def Memory.inBuffers (dataBytes : Nat) (m : Memory) : Bool := m.all fun c => isBufferOffset dataBytes c.1

/-- The byte a buffer holds at a window offset: the byte last written there since reset, else the draw of the last reset
(70_reset_and_hazards.md R183; log 4). -/
def State.byteAt (s : State) (x : Nat) : Byte := (s.mem.read? x).getD (Config.bufferDraw s.resetIndex x)

/-- The n buffer bytes from window offset x on, in index order. -/
def State.bytesAt (s : State) (x n : Nat) : List Byte := (List.range n).map fun i => s.byteAt (x + i)

/-- A byte sequence stored in the buffers from window offset x on. -/
def State.storeBytes (s : State) (x : Nat) (bs : List Byte) : State := { s with mem := s.mem.writeBytes x bs }

/-! The register map -/

/-- The registers at offsets 0x000 to 0x034, one word each, in the order of the map (10_state.md R23). -/
def fixedRegs : List Reg :=
  [.id, .version, .ctrl, .cmd, .status, .passLen, .saltLen, .iter, .dklen, .keylen, .dataLen, .outLen, .padLen, .progress]

/-- The register or buffer word at a 4-byte-aligned offset; none at a reserved one (10_state.md R23; 20_memory.md R67). -/
def regAt (dataBytes off : Nat) : Option Reg :=
  if off < keyBase then fixedRegs[off / 4]?
  else if off < keyBase + Config.keyBytes then some (.key (Fin.ofNat 8 ((off - keyBase) / 4)))
  else if passBase ≤ off ∧ off < passBase + Config.passMax then some (.pass (Fin.ofNat 16 ((off - passBase) / 4)))
  else if saltBase ≤ off ∧ off < saltBase + Config.saltMax then some (.salt (Fin.ofNat 16 ((off - saltBase) / 4)))
  else if dataBase ≤ off ∧ off < dataBase + dataBytes then some (.data ((off - dataBase) / 4))
  else none

/-- The byte offset of a register (10_state.md R23; 30_encoding.md R86). -/
def Reg.offset : Reg → Nat
  | .id => 0x000
  | .version => 0x004
  | .ctrl => 0x008
  | .cmd => 0x00C
  | .status => 0x010
  | .passLen => 0x014
  | .saltLen => 0x018
  | .iter => 0x01C
  | .dklen => 0x020
  | .keylen => 0x024
  | .dataLen => 0x028
  | .outLen => 0x02C
  | .padLen => 0x030
  | .progress => 0x034
  | .key j => keyBase + 4 * j.val
  | .pass j => passBase + 4 * j.val
  | .salt j => saltBase + 4 * j.val
  | .data j => dataBase + 4 * j

/-- Whether a register of the map exists: DATAj does when 4j < DATA_BYTES, every other one always (10_state.md R23). -/
def Reg.present (dataBytes : Nat) : Reg → Bool
  | .data j => decide (4 * j < dataBytes)
  | _ => true

/-- The read-only registers ID, VERSION, OUT_LEN, PAD_LEN and PROGRESS (10_state.md R48). -/
def Reg.readOnly : Reg → Bool
  | .id | .version | .outLen | .padLen | .progress => true
  | _ => false

/-- The registers a read of which is a draw while Busy: KEY0 to KEY7, KEYLEN, OUT_LEN, PAD_LEN, PROGRESS and the DATA words
(20_memory.md R70). -/
def Reg.drawnWhileBusy : Reg → Bool
  | .keylen | .outLen | .padLen | .progress | .key _ | .data _ => true
  | _ => false

/-! Reading and writing a register -/

/-- The word of a buffer at a window offset, little-endian (20_memory.md R63). -/
def State.bufferWord (s : State) (x : Nat) : Word := le32 (s.byteAt x) (s.byteAt (x + 1)) (s.byteAt (x + 2)) (s.byteAt (x + 3))

/-- KEYj, little-endian (10_state.md R43; 20_memory.md R63). -/
def State.keyWord (s : State) (j : Fin 8) : Word :=
  le32 s.key[4 * j.val] s.key[4 * j.val + 1] s.key[4 * j.val + 2] s.key[4 * j.val + 3]

/-- The stored value of a register, reserved bits 0 (10_state.md R24 to R46; 20_memory.md R61). -/
def State.readReg (s : State) : Reg → Word
  | .id => Config.idValue
  | .version => Config.versionValue
  | .ctrl => s.ctrl.setWidth 32
  | .cmd => 0
  | .status => s.statusWord
  | .passLen => s.passLen.setWidth 32
  | .saltLen => s.saltLen.setWidth 32
  | .iter => s.iter
  | .dklen => s.dklen.setWidth 32
  | .keylen => s.keylen.setWidth 32
  | .dataLen => s.dataLen
  | .outLen => s.outLen
  | .padLen => s.padLen.setWidth 32
  | .progress => s.progress
  | .key j => s.keyWord j
  | .pass j => s.bufferWord (passBase + 4 * j.val)
  | .salt j => s.bufferWord (saltBase + 4 * j.val)
  | .data j => s.bufferWord (dataBase + 4 * j)

/-- A word stored in KEYj: KEY[4j+k] <- v[8k+7:8k] (20_memory.md R63). -/
def setKeyWord (key : Vector Byte 32) (j : Fin 8) (v : Word) : Vector Byte 32 :=
  Vector.ofFn fun i => if i.val / 4 = j.val then lane v (i.val % 4) else key[i]

/-- Acceptance of command word v: the entry of this core (60_exceptions.md R163). v is not examined. -/
def State.accept (s : State) (v : Word) : State :=
  { s with pcmd := some v, done := false, errcode := 0, progress := 0 }

/-- `complete(code)`: the running command ends and its result is recorded (60_exceptions.md R157, R164). -/
def State.complete (s : State) (code : ResultCode) : State :=
  { s with errcode := code.code, pcmd := none, done := true }

/-- The write rule of a register while Idle: store the defined bits, ignore a read-only one, clear by ones in STATUS, accept
a command in CMD (20_memory.md R62; 10_state.md R26 to R48). -/
def State.writeIdle (s : State) (r : Reg) (v : Word) : State :=
  match r with
  | .id | .version | .outLen | .padLen | .progress => s
  | .ctrl => { s with ctrl := v.extractLsb' 0 2 }
  | .cmd => s.accept v
  | .status => s.writeStatus v
  | .passLen => { s with passLen := v.extractLsb' 0 8 }
  | .saltLen => { s with saltLen := v.extractLsb' 0 8 }
  | .iter => { s with iter := v }
  | .dklen => { s with dklen := v.extractLsb' 0 8 }
  | .keylen => { s with keylen := v.extractLsb' 0 8 }
  | .dataLen => { s with dataLen := v }
  | .key j => { s with key := setKeyWord s.key j v }
  | .pass j => s.storeBytes (passBase + 4 * j.val) (le32bytes v)
  | .salt j => s.storeBytes (saltBase + 4 * j.val) (le32bytes v)
  | .data j => s.storeBytes (dataBase + 4 * j) (le32bytes v)

/-- The write rule while Busy: a CMD write is dropped and sets CMD_OVF, a STATUS write takes effect, a write to a read-only
register is ignored, any other write is dropped and sets WR_BUSY (20_memory.md R69; 10_state.md R30, R31, R48). -/
def State.writeBusy (s : State) (r : Reg) (v : Word) : State :=
  match r with
  | .id | .version | .outLen | .padLen | .progress => s
  | .cmd => { s with cmdOvf := true }
  | .status => s.writeStatus v
  | .ctrl | .passLen | .saltLen | .iter | .dklen | .keylen | .dataLen | .key _ | .pass _ | .salt _ | .data _ =>
    { s with wrBusy := true }

/-! The reset event -/

/-- The reset event: every piece of state to its reset value at once, the buffers to fresh draws, a running command
abandoned (70_reset_and_hazards.md R178 to R183). The parameters DATA_BYTES and BASE and the inputs still to come are not
the core's registers and stay; the port has answered nothing since (log 11). -/
def State.resetEvent (s : State) : State :=
  { State.reset with
    dataBytes := s.dataBytes
    base := s.base
    pending := s.pending
    drawIndex := s.drawIndex
    resetIndex := s.resetIndex + 1 }

end Sys2Proof.Machine
end

