-- ==== Sys2Proof/Machine/Bus.lean ====
section
/-! DEFINITION. The bus port: the host's MemRead and MemWrite, with their bus errors (20_memory.md R61 to R70; 60_exceptions.md R153, R154, R160). -/

namespace Sys2Proof.Machine

open Sys2Proof

/-- The register a transaction reaches: one of size 4, aligned, at a defined offset; none is a bus error
(20_memory.md R65, R66, R67). -/
def busTarget (dataBytes off : Nat) (size : BusSize) : Option Reg :=
  if size = .word then if off % 4 = 0 then regAt dataBytes off else none else none

/-- The port returns a response and data (10_state.md R53). -/
def State.respond (s : State) (resp : Resp) (rdata : Option Word) : State := { s with response := some ⟨resp, rdata⟩ }

/-- The next read draw is consumed (20_memory.md R70; log 3). -/
def State.nextDraw (s : State) : State := { s with drawIndex := s.drawIndex + 1 }

/-- `MemRead(off, size)`: OKAY with the stored value, or with a draw where 20_memory.md R70 says so; ERROR with data 0 where
nothing is reached (20_memory.md R61, R65 to R67, R70). -/
def State.memRead (s : State) (off : Nat) (size : BusSize) : State :=
  match busTarget s.dataBytes off size with
  | none => s.respond .error (some 0)
  | some r =>
    if s.busy && r.drawnWhileBusy then (s.nextDraw).respond .okay (some (Config.readDraw s.drawIndex))
    else s.respond .okay (some (s.readReg r))

/-- The write rule of a register, by the state of the engine (20_memory.md R62, R69). -/
def State.writeReg (s : State) (r : Reg) (v : Word) : State := if s.busy then s.writeBusy r v else s.writeIdle r v

/-- `MemWrite(off, size, v)`: OKAY and the register's write rule, or ERROR and no change (20_memory.md R62, R65 to R67, R69). -/
def State.memWrite (s : State) (off : Nat) (size : BusSize) (v : Word) : State :=
  match busTarget s.dataBytes off size with
  | none => s.respond .error none
  | some r => (s.writeReg r v).respond .okay none

/-- One host transaction. An offset that does not fit the port's ADDR_BITS bits is none a host can present: the fault
`offsetOutsideWindow` (10_state.md R53; log 8). -/
def State.busTransaction (s : State) (t : Transaction) : Host.Outcome State Fault Refusal :=
  if t.off < Config.windowBytes s.dataBytes then
    match t with
    | .read off size => .next (s.memRead off size)
    | .write off size v => .next (s.memWrite off size v)
  else .fault .offsetOutsideWindow

/-! The window in the host's address space -/

/-- The addresses of the core's window: 2^ADDR_BITS bytes from BASE on (10_state.md R23; 20_memory.md R71). -/
def State.inWindow (s : State) (addr : Nat) : Bool :=
  decide (s.base ≤ addr) && decide (addr < s.base + Config.windowBytes s.dataBytes)

/-- The transaction an access makes at the port of a core at `base`: the offset is relative to BASE (20_memory.md R71). -/
def Access.toPort (base : Nat) : Access → Transaction
  | .read addr size => .read (addr - base) size
  | .write addr size v => .write (addr - base) size v

/-- The access with which a host reaches an offset of a core at `base` (20_memory.md R71). -/
def Transaction.atBase (base : Nat) : Transaction → Access
  | .read off size => .read (base + off) size
  | .write off size v => .write (base + off) size v

/-- One host access. The core has no region outside its window, so an access elsewhere does not reach it
(20_memory.md R71; log 10). -/
def State.hostAccess (s : State) (a : Access) : Host.Outcome State Fault Refusal :=
  if s.inWindow a.addr then s.busTransaction (a.toPort s.base) else .next s

end Sys2Proof.Machine
end

