-- ==== Sys2Proof/Machine/Aes.lean ====
section
/-! DEFINITION. AES-256: the key expansion, the inverse cipher and ECB decryption (41_block_decryptor.md R120 to R132). -/

namespace Sys2Proof.Machine

open Sys2Proof

/-- The 4 x 4 state of one block: s[r][c] stands at place r + 4c, which is also how a block is loaded and stored
(41_block_decryptor.md R125). -/
abbrev AesBlock := Vector Byte 16

/-- A round-key word w[i], four bytes in order (41_block_decryptor.md R125). -/
abbrev KeyWord := Vector Byte 4

/-- `xtime(a)` (41_block_decryptor.md R121). -/
def xtime (a : Byte) : Byte := if a.getLsbD 7 then (a <<< 1) ^^^ 0x1B else a <<< 1

/-- The xor of `xtime^j(a)` over the bits j of b from k on that are 1; n counts the bits left, and a has been multiplied k
times already. -/
def gmulFrom : Nat → Nat → Byte → Byte → Byte
  | 0, _, _, _ => 0
  | n + 1, k, a, b => (if b.getLsbD k then a else 0) ^^^ gmulFrom n (k + 1) (xtime a) b

/-- `mul(a, b)` in GF(2^8): the xor of `xtime^k(a)` over every bit k with b[k] = 1 (41_block_decryptor.md R121). -/
def gmul (a b : Byte) : Byte := gmulFrom 8 0 a b

/-- The S-box, one row of 16 as the table has it (41_block_decryptor.md R122). -/
def sboxRows : List (List Byte) :=
  [[0x63, 0x7c, 0x77, 0x7b, 0xf2, 0x6b, 0x6f, 0xc5, 0x30, 0x01, 0x67, 0x2b, 0xfe, 0xd7, 0xab, 0x76],
   [0xca, 0x82, 0xc9, 0x7d, 0xfa, 0x59, 0x47, 0xf0, 0xad, 0xd4, 0xa2, 0xaf, 0x9c, 0xa4, 0x72, 0xc0],
   [0xb7, 0xfd, 0x93, 0x26, 0x36, 0x3f, 0xf7, 0xcc, 0x34, 0xa5, 0xe5, 0xf1, 0x71, 0xd8, 0x31, 0x15],
   [0x04, 0xc7, 0x23, 0xc3, 0x18, 0x96, 0x05, 0x9a, 0x07, 0x12, 0x80, 0xe2, 0xeb, 0x27, 0xb2, 0x75],
   [0x09, 0x83, 0x2c, 0x1a, 0x1b, 0x6e, 0x5a, 0xa0, 0x52, 0x3b, 0xd6, 0xb3, 0x29, 0xe3, 0x2f, 0x84],
   [0x53, 0xd1, 0x00, 0xed, 0x20, 0xfc, 0xb1, 0x5b, 0x6a, 0xcb, 0xbe, 0x39, 0x4a, 0x4c, 0x58, 0xcf],
   [0xd0, 0xef, 0xaa, 0xfb, 0x43, 0x4d, 0x33, 0x85, 0x45, 0xf9, 0x02, 0x7f, 0x50, 0x3c, 0x9f, 0xa8],
   [0x51, 0xa3, 0x40, 0x8f, 0x92, 0x9d, 0x38, 0xf5, 0xbc, 0xb6, 0xda, 0x21, 0x10, 0xff, 0xf3, 0xd2],
   [0xcd, 0x0c, 0x13, 0xec, 0x5f, 0x97, 0x44, 0x17, 0xc4, 0xa7, 0x7e, 0x3d, 0x64, 0x5d, 0x19, 0x73],
   [0x60, 0x81, 0x4f, 0xdc, 0x22, 0x2a, 0x90, 0x88, 0x46, 0xee, 0xb8, 0x14, 0xde, 0x5e, 0x0b, 0xdb],
   [0xe0, 0x32, 0x3a, 0x0a, 0x49, 0x06, 0x24, 0x5c, 0xc2, 0xd3, 0xac, 0x62, 0x91, 0x95, 0xe4, 0x79],
   [0xe7, 0xc8, 0x37, 0x6d, 0x8d, 0xd5, 0x4e, 0xa9, 0x6c, 0x56, 0xf4, 0xea, 0x65, 0x7a, 0xae, 0x08],
   [0xba, 0x78, 0x25, 0x2e, 0x1c, 0xa6, 0xb4, 0xc6, 0xe8, 0xdd, 0x74, 0x1f, 0x4b, 0xbd, 0x8b, 0x8a],
   [0x70, 0x3e, 0xb5, 0x66, 0x48, 0x03, 0xf6, 0x0e, 0x61, 0x35, 0x57, 0xb9, 0x86, 0xc1, 0x1d, 0x9e],
   [0xe1, 0xf8, 0x98, 0x11, 0x69, 0xd9, 0x8e, 0x94, 0x9b, 0x1e, 0x87, 0xe9, 0xce, 0x55, 0x28, 0xdf],
   [0x8c, 0xa1, 0x89, 0x0d, 0xbf, 0xe6, 0x42, 0x68, 0x41, 0x99, 0x2d, 0x0f, 0xb0, 0x54, 0xbb, 0x16]]

/-- The inverse S-box, one row of 16 as the table has it (41_block_decryptor.md R123). -/
def invSboxRows : List (List Byte) :=
  [[0x52, 0x09, 0x6a, 0xd5, 0x30, 0x36, 0xa5, 0x38, 0xbf, 0x40, 0xa3, 0x9e, 0x81, 0xf3, 0xd7, 0xfb],
   [0x7c, 0xe3, 0x39, 0x82, 0x9b, 0x2f, 0xff, 0x87, 0x34, 0x8e, 0x43, 0x44, 0xc4, 0xde, 0xe9, 0xcb],
   [0x54, 0x7b, 0x94, 0x32, 0xa6, 0xc2, 0x23, 0x3d, 0xee, 0x4c, 0x95, 0x0b, 0x42, 0xfa, 0xc3, 0x4e],
   [0x08, 0x2e, 0xa1, 0x66, 0x28, 0xd9, 0x24, 0xb2, 0x76, 0x5b, 0xa2, 0x49, 0x6d, 0x8b, 0xd1, 0x25],
   [0x72, 0xf8, 0xf6, 0x64, 0x86, 0x68, 0x98, 0x16, 0xd4, 0xa4, 0x5c, 0xcc, 0x5d, 0x65, 0xb6, 0x92],
   [0x6c, 0x70, 0x48, 0x50, 0xfd, 0xed, 0xb9, 0xda, 0x5e, 0x15, 0x46, 0x57, 0xa7, 0x8d, 0x9d, 0x84],
   [0x90, 0xd8, 0xab, 0x00, 0x8c, 0xbc, 0xd3, 0x0a, 0xf7, 0xe4, 0x58, 0x05, 0xb8, 0xb3, 0x45, 0x06],
   [0xd0, 0x2c, 0x1e, 0x8f, 0xca, 0x3f, 0x0f, 0x02, 0xc1, 0xaf, 0xbd, 0x03, 0x01, 0x13, 0x8a, 0x6b],
   [0x3a, 0x91, 0x11, 0x41, 0x4f, 0x67, 0xdc, 0xea, 0x97, 0xf2, 0xcf, 0xce, 0xf0, 0xb4, 0xe6, 0x73],
   [0x96, 0xac, 0x74, 0x22, 0xe7, 0xad, 0x35, 0x85, 0xe2, 0xf9, 0x37, 0xe8, 0x1c, 0x75, 0xdf, 0x6e],
   [0x47, 0xf1, 0x1a, 0x71, 0x1d, 0x29, 0xc5, 0x89, 0x6f, 0xb7, 0x62, 0x0e, 0xaa, 0x18, 0xbe, 0x1b],
   [0xfc, 0x56, 0x3e, 0x4b, 0xc6, 0xd2, 0x79, 0x20, 0x9a, 0xdb, 0xc0, 0xfe, 0x78, 0xcd, 0x5a, 0xf4],
   [0x1f, 0xdd, 0xa8, 0x33, 0x88, 0x07, 0xc7, 0x31, 0xb1, 0x12, 0x10, 0x59, 0x27, 0x80, 0xec, 0x5f],
   [0x60, 0x51, 0x7f, 0xa9, 0x19, 0xb5, 0x4a, 0x0d, 0x2d, 0xe5, 0x7a, 0x9f, 0x93, 0xc9, 0x9c, 0xef],
   [0xa0, 0xe0, 0x3b, 0x4d, 0xae, 0x2a, 0xf5, 0xb0, 0xc8, 0xeb, 0xbb, 0x3c, 0x83, 0x53, 0x99, 0x61],
   [0x17, 0x2b, 0x04, 0x7e, 0xba, 0x77, 0xd6, 0x26, 0xe1, 0x69, 0x14, 0x63, 0x55, 0x21, 0x0c, 0x7d]]

/-- Entry x = 16 * row + column of a table of 16 rows of 16 (41_block_decryptor.md R122, R123). -/
def lookup (rows : List (List Byte)) (x : Byte) : Byte := (rows.getD (x.toNat / 16) []).getD (x.toNat % 16) 0

/-- SBOX[x] (41_block_decryptor.md R122). -/
def sbox (x : Byte) : Byte := lookup sboxRows x

/-- INV_SBOX[x] (41_block_decryptor.md R123). -/
def invSbox (x : Byte) : Byte := lookup invSboxRows x

/-- rc_j: rc_1 = 0x01, rc_(j+1) = xtime(rc_j) (41_block_decryptor.md R124). -/
def rc : Nat → Byte
  | 0 => 0x00
  | 1 => 0x01
  | j + 2 => xtime (rc (j + 1))

/-- Rcon[j] = (rc_j, 0, 0, 0) (41_block_decryptor.md R124). -/
def rcon (j : Nat) : KeyWord := #v[rc j, 0, 0, 0]

/-- RotWord (41_block_decryptor.md R126). -/
def rotWord (w : KeyWord) : KeyWord := #v[w[1], w[2], w[3], w[0]]

/-- SubWord (41_block_decryptor.md R126). -/
def subWord (w : KeyWord) : KeyWord := w.map sbox

/-- Byte-wise xor of two key words (41_block_decryptor.md R126). -/
def xorWord (u v : KeyWord) : KeyWord := Vector.ofFn fun k => u[k] ^^^ v[k]

/-- What is xored to w[i-8] to make w[i], from w[i-1] (41_block_decryptor.md R126). -/
def keyTemp (i : Nat) (prev : KeyWord) : KeyWord :=
  if i % 8 = 0 then xorWord (subWord (rotWord prev)) (rcon (i / 8))
  else if i % 8 = 4 then subWord prev
  else prev

/-- n more words of the key schedule, from w[i] on. The list holds the words so far, newest first, so that w[i-1] and
w[i-8] stand at places 0 and 7 (41_block_decryptor.md R126). -/
def keyExtend : Nat → Nat → List KeyWord → List KeyWord
  | 0, _, ws => ws
  | n + 1, i, ws =>
    keyExtend n (i + 1) (xorWord (ws.getD 7 #v[0, 0, 0, 0]) (keyTemp i (ws.getD 0 #v[0, 0, 0, 0])) :: ws)

/-- w[0..8), the bytes of the key four at a time (41_block_decryptor.md R126). -/
def keyWords (key : Vector Byte 32) : List KeyWord :=
  (List.finRange 8).map fun i => Vector.ofFn fun k : Fin 4 => key[4 * i.val + k.val]

/-- `KeyExpansion(key)`, the 60 round-key words w[0..60) (41_block_decryptor.md R126). -/
def keyExpansion (key : Vector Byte 32) : List KeyWord := (keyExtend 52 8 (keyWords key).reverse).reverse

/-- AddRoundKey(s, round): s[r][c] <- s[r][c] ^ w[4 * round + c][r] (41_block_decryptor.md R127). -/
def addRoundKey (w : List KeyWord) (round : Nat) (s : AesBlock) : AesBlock :=
  Vector.ofFn fun i => s[i] ^^^ (w.getD (4 * round + i.val / 4) #v[0, 0, 0, 0])[i.val % 4]

/-- InvShiftRows(s): s'[r][c] = s[r][(c - r) mod 4] (41_block_decryptor.md R128). -/
def invShiftRows (s : AesBlock) : AesBlock :=
  Vector.ofFn fun i => s[i.val % 4 + 4 * ((i.val / 4 + 4 - i.val % 4) % 4)]

/-- InvSubBytes(s) (41_block_decryptor.md R129). -/
def invSubBytes (s : AesBlock) : AesBlock := s.map invSbox

/-- One byte of a column after InvMixColumns: the first multiplier goes with the byte of its own row, the others with the
rows below it, cyclically (41_block_decryptor.md R130). -/
def invMixByte (a0 a1 a2 a3 : Byte) : Byte := gmul a0 0x0E ^^^ gmul a1 0x0B ^^^ gmul a2 0x0D ^^^ gmul a3 0x09

/-- InvMixColumns(s): row r of column c is made from s[r][c], s[r+1][c], s[r+2][c], s[r+3][c], rows mod 4
(41_block_decryptor.md R130). -/
def invMixColumns (s : AesBlock) : AesBlock :=
  Vector.ofFn fun i =>
    invMixByte s[i.val] s[4 * (i.val / 4) + (i.val % 4 + 1) % 4] s[4 * (i.val / 4) + (i.val % 4 + 2) % 4]
      s[4 * (i.val / 4) + (i.val % 4 + 3) % 4]

/-- The rounds n, n-1, ..., 1 of the inverse cipher (41_block_decryptor.md R131). -/
def invRounds (w : List KeyWord) : Nat → AesBlock → AesBlock
  | 0, s => s
  | n + 1, s => invRounds w n (invMixColumns (addRoundKey w (n + 1) (invSubBytes (invShiftRows s))))

/-- `InvCipher(in, w)` (41_block_decryptor.md R131). -/
def invCipher (w : List KeyWord) (s : AesBlock) : AesBlock :=
  addRoundKey w 0 (invSubBytes (invShiftRows (invRounds w 13 (addRoundKey w 14 s))))

/-- `AES256_DEC(K, C)` (41_block_decryptor.md R131). -/
def aes256Dec (key : Vector Byte 32) (c : AesBlock) : AesBlock := invCipher (keyExpansion key) c

/-- The first 16 bytes of a byte sequence as a block (41_block_decryptor.md R125, R132). -/
def blockOfBytes (bs : List Byte) : AesBlock := Vector.ofFn fun i => bs.getD i.val 0

/-- n blocks of a byte sequence under round keys w, each on its own, concatenated in order (41_block_decryptor.md R132). -/
def ecbBlocks (w : List KeyWord) : Nat → List Byte → List Byte
  | 0, _ => []
  | n + 1, bs => (invCipher w (blockOfBytes (bs.take 16))).toList ++ ecbBlocks w n (bs.drop 16)

/-- `ECB_DEC(K, C)` for len(C) = 16n (41_block_decryptor.md R132). -/
def ecbDec (key : Vector Byte 32) (c : List Byte) : List Byte :=
  ecbBlocks (keyExpansion key) (c.length / Config.blockBytes) c

end Sys2Proof.Machine
end

