-- ==== Sys2Proof/Machine/Operands.lean ====
section
/-! DEFINITION. Operand assembly: the registers and buffer ranges a command reads, zero-extended, and the checks on them (30_encoding.md R85). -/

namespace Sys2Proof.Machine

open Sys2Proof

/-- P = PASS[0..PASS_LEN) (40_key_deriver.md R112). -/
def State.passphrase (s : State) : List Byte := s.bytesAt passBase s.passLen.toNat

/-- S = SALT[0..SALT_LEN) (40_key_deriver.md R112). -/
def State.saltString (s : State) : List Byte := s.bytesAt saltBase s.saltLen.toNat

/-- DATA[0..DATA_LEN) (30_encoding.md R85). -/
def State.dataInput (s : State) : List Byte := s.bytesAt dataBase s.dataLen.toNat

/-- DERIVE's checks: 1 <= PASS_LEN <= PASS_MAX, 1 <= SALT_LEN <= SALT_MAX, 1 <= ITER, 1 <= DKLEN <= DKLEN_MAX
(40_key_deriver.md R112). -/
def State.deriveOperandsOk (s : State) : Bool :=
  decide (1 ≤ s.passLen.toNat) && decide (s.passLen.toNat ≤ Config.passMax)
    && decide (1 ≤ s.saltLen.toNat) && decide (s.saltLen.toNat ≤ Config.saltMax)
    && decide (1 ≤ s.iter.toNat)
    && decide (1 ≤ s.dklen.toNat) && decide (s.dklen.toNat ≤ Config.dklenMax)

/-- The key check: KEYLEN = 32 (41_block_decryptor.md R134). -/
def State.keyLengthOk (s : State) : Bool := decide (s.keylen.toNat = Config.keyBytes)

/-- The length check: DATA_LEN > 0, DATA_LEN mod 16 = 0, DATA_LEN <= DATA_BYTES (41_block_decryptor.md R135). -/
def State.dataLengthOk (s : State) : Bool :=
  decide (0 < s.dataLen.toNat) && decide (s.dataLen.toNat % Config.blockBytes = 0)
    && decide (s.dataLen.toNat ≤ s.dataBytes)

/-- What a failed key or length check writes before it completes: OUT_LEN <- 0, PAD_LEN <- 0 (41_block_decryptor.md R134,
R135). -/
def State.clearLengths (s : State) : State := { s with outLen := 0, padLen := 0 }

end Sys2Proof.Machine
end

