-- ==== Sys2Proof/Machine/PaddingValidator.lean ====
section
/-! DEFINITION. The PKCS#7 padding validator and the command UNPAD (42_padding_validator.md R143 to R151). -/

namespace Sys2Proof.Machine

open Sys2Proof

/-- p, the final byte of a byte sequence (42_padding_validator.md R143). -/
def lastByte (b : List Byte) : Byte := b.getLastD 0

/-- `PadCheck(B, strict)`: the range check on p always, the content check on the last p bytes when strict
(42_padding_validator.md R143 to R145). The answer is (ok, p). -/
def padCheck (b : List Byte) (strict : Bool) : Bool × Byte :=
  let p := lastByte b
  if p.toNat = 0 ∨ Config.padMax < p.toNat then (false, p)
  else if strict then ((b.drop (b.length - p.toNat)).all (fun x => x == p), p)
  else (true, p)

/-- OUT_LEN and PAD_LEN after a padding check that gave (ok, p): the strip DATA_LEN - p, or 0 where the check failed
(42_padding_validator.md R146, R147). -/
def State.recordPadding (s : State) (ok : Bool) (p : Byte) : State :=
  { s with
    outLen := if ok then s.dataLen - p.setWidth 32 else 0
    padLen := p }

/-- The result code of a padding check. -/
def padCode (ok : Bool) : ResultCode := if ok then .ok else .paddingError

/-- UNPAD (42_padding_validator.md R147). -/
def execUnpad (s : State) : Host.Outcome State Fault Refusal :=
  if s.dataLengthOk then
    let r := padCheck s.dataInput s.strictPad
    .next ((s.recordPadding r.1 r.2).complete (padCode r.1))
  else .next (s.clearLengths.complete .invalidCiphertextLength)

end Sys2Proof.Machine
end

