-- ==== Sys2Proof/Machine/BlockDecryptor.lean ====
section
/-! DEFINITION. The BlockDecryptor: the commands DECRYPT and DECRYPT_FINAL (41_block_decryptor.md R132 to R142). -/

namespace Sys2Proof.Machine

open Sys2Proof

/-- The plaintext of DATA[0..DATA_LEN) under KEY (41_block_decryptor.md R132, R136). -/
def State.decryptedData (s : State) : List Byte := ecbDec s.key s.dataInput

/-- n = DATA_LEN / 16, as PROGRESS records it (41_block_decryptor.md R136, R138). -/
def State.blockCount (s : State) : Word := BitVec.ofNat 32 (s.dataLen.toNat / Config.blockBytes)

/-- What DECRYPT writes when its checks pass, before it completes (41_block_decryptor.md R136). -/
def State.writePlaintext (s : State) : State :=
  { s.storeBytes dataBase s.decryptedData with
    outLen := s.dataLen
    padLen := 0
    progress := s.blockCount }

/-- DECRYPT: the key check first, then the length check (41_block_decryptor.md R136). -/
def execDecrypt (s : State) : Host.Outcome State Fault Refusal :=
  if s.keyLengthOk then
    if s.dataLengthOk then .next (s.writePlaintext.complete .ok)
    else .next (s.clearLengths.complete .invalidCiphertextLength)
  else .next (s.clearLengths.complete .invalidKeyLength)

/-- What DECRYPT_FINAL writes when its key and length checks pass, before it completes, for a padding check that gave
(ok, p): the plaintext, or DATA_LEN zero bytes where the check failed, with PROGRESS, OUT_LEN and PAD_LEN
(41_block_decryptor.md R138, R139). -/
def State.writeFinal (s : State) (ok : Bool) (p : Byte) : State :=
  { (s.storeBytes dataBase (if ok then s.decryptedData else bytesOf s.dataLen.toNat 0x00)).recordPadding ok p with
    progress := s.blockCount }

/-- DECRYPT_FINAL: the key check first, then the length check, the padding check last (41_block_decryptor.md R138). -/
def execDecryptFinal (s : State) : Host.Outcome State Fault Refusal :=
  if s.keyLengthOk then
    if s.dataLengthOk then
      let r := padCheck s.decryptedData s.strictPad
      .next ((s.writeFinal r.1 r.2).complete (padCode r.1))
    else .next (s.clearLengths.complete .invalidCiphertextLength)
  else .next (s.clearLengths.complete .invalidKeyLength)

end Sys2Proof.Machine
end

