-- ==== Sys2Proof/Machine/Illegal.lean ====
section
/-! DEFINITION. Illegal command words (60_exceptions.md R158). -/

namespace Sys2Proof.Machine

open Sys2Proof

/-- ILLEGAL: nothing but the completion, with IllegalCommand, before any operand is examined (60_exceptions.md R158, R159).
The word itself is not used. -/
def execIllegal (_v : Word) (s : State) : Host.Outcome State Fault Refusal := .next (s.complete .illegalCommand)

end Sys2Proof.Machine
end

