-- ==== Sys2Proof/Machine/Sha1.lean ====
section
/-! DEFINITION. SHA-1 (40_key_deriver.md R101 to R107). -/

namespace Sys2Proof.Machine

open Sys2Proof

/-- The chaining value H[0..5), also the five working words a, b, c, d, e (40_key_deriver.md R103, R106). -/
structure Sha1State where
  a : Word
  b : Word
  c : Word
  d : Word
  e : Word
deriving DecidableEq, Repr

/-- The initial hash value (40_key_deriver.md R103). -/
def sha1Init : Sha1State := ⟨0x67452301, 0xEFCDAB89, 0x98BADCFE, 0x10325476, 0xC3D2E1F0⟩

/-- k = (55 - n) mod 64, the number of zero bytes of the padding (40_key_deriver.md R102). -/
def sha1ZeroCount (n : Nat) : Nat := (55 + 64 - n % 64) % 64

/-- The padded message M' (40_key_deriver.md R102). -/
def sha1Pad (m : List Byte) : List Byte :=
  m ++ [0x80] ++ bytesOf (sha1ZeroCount m.length) 0x00 ++ be64bytes (8 * m.length)

/-- f_t(b, c, d) (40_key_deriver.md R104). -/
def sha1F (t : Nat) (b c d : Word) : Word :=
  if t < 20 then (b &&& c) ^^^ (~~~b &&& d)
  else if t < 40 then b ^^^ c ^^^ d
  else if t < 60 then (b &&& c) ^^^ (b &&& d) ^^^ (c &&& d)
  else b ^^^ c ^^^ d

/-- K_t (40_key_deriver.md R104). -/
def sha1K (t : Nat) : Word :=
  if t < 20 then 0x5A827999
  else if t < 40 then 0x6ED9EBA1
  else if t < 60 then 0x8F1BBCDC
  else 0xCA62C1D6

/-- W[0..16) of a block: its bytes read four at a time, big-endian (40_key_deriver.md R101, R105). -/
def sha1Words (blk : List Byte) : List Word :=
  (List.range 16).map fun t =>
    be32 (blk.getD (4 * t) 0) (blk.getD (4 * t + 1) 0) (blk.getD (4 * t + 2) 0) (blk.getD (4 * t + 3) 0)

/-- n more words of the schedule. The list holds the words so far, newest first, so that W[t-3], W[t-8], W[t-14] and
W[t-16] stand at places 2, 7, 13 and 15 (40_key_deriver.md R105). -/
def sha1Extend : Nat → List Word → List Word
  | 0, ws => ws
  | n + 1, ws =>
    sha1Extend n (rotl32 (ws.getD 2 0 ^^^ ws.getD 7 0 ^^^ ws.getD 13 0 ^^^ ws.getD 15 0) 1 :: ws)

/-- The schedule W[0..80) of a 64-byte block (40_key_deriver.md R105). -/
def sha1Schedule (blk : List Byte) : List Word := (sha1Extend 64 (sha1Words blk).reverse).reverse

/-- Round t on the working words (40_key_deriver.md R106). -/
def sha1Round (t : Nat) (w : Word) (h : Sha1State) : Sha1State :=
  ⟨rotl32 h.a 5 + sha1F t h.b h.c h.d + h.e + sha1K t + w, h.a, rotl32 h.b 30, h.c, h.d⟩

/-- The rounds from round t on, one for each word of the schedule (40_key_deriver.md R106). -/
def sha1Rounds : Nat → List Word → Sha1State → Sha1State
  | _, [], h => h
  | t, w :: ws, h => sha1Rounds (t + 1) ws (sha1Round t w h)

/-- `compress(H, blk)` (40_key_deriver.md R106). -/
def sha1Compress (h : Sha1State) (blk : List Byte) : Sha1State :=
  let r := sha1Rounds 0 (sha1Schedule blk) h
  ⟨h.a + r.a, h.b + r.b, h.c + r.c, h.d + r.d, h.e + r.e⟩

/-- n blocks, one after the other (40_key_deriver.md R107). -/
def sha1Blocks : Nat → List Byte → Sha1State → Sha1State
  | 0, _, h => h
  | n + 1, m, h => sha1Blocks n (m.drop 64) (sha1Compress h (m.take 64))

/-- `SHA1(M)`, 20 bytes (40_key_deriver.md R107). -/
def sha1 (m : List Byte) : List Byte :=
  let p := sha1Pad m
  let h := sha1Blocks (p.length / 64) p sha1Init
  be32bytes h.a ++ be32bytes h.b ++ be32bytes h.c ++ be32bytes h.d ++ be32bytes h.e

end Sys2Proof.Machine
end

