-- ==== Sys2Proof/Machine/Pbkdf2.lean ====
section
/-! DEFINITION. HMAC-SHA1 and PBKDF2 (40_key_deriver.md R108 to R111). -/

namespace Sys2Proof.Machine

open Sys2Proof

/-- K0, the key of HMAC padded to one 64-byte block; a longer key is hashed first (40_key_deriver.md R108). -/
def hmacKeyBlock (k : List Byte) : List Byte :=
  if 64 < k.length then sha1 k ++ bytesOf 44 0x00
  else k ++ bytesOf (64 - k.length) 0x00

/-- `HMAC_SHA1(K, m)`, 20 bytes (40_key_deriver.md R108). -/
def hmacSha1 (k m : List Byte) : List Byte :=
  let k0 := hmacKeyBlock k
  let inner := sha1 (xorBytes k0 (bytesOf 64 0x36) ++ m)
  sha1 (xorBytes k0 (bytesOf 64 0x5C) ++ inner)

/-- n further iterations of the inner loop: U <- HMAC(P, U), T <- T xor U (40_key_deriver.md R110). -/
def pbkdf2Iterate (p : List Byte) : Nat → List Byte → List Byte → List Byte
  | 0, _, t => t
  | n + 1, u, t =>
    let u' := hmacSha1 p u
    pbkdf2Iterate p n u' (xorBytes t u')

/-- T_i, with c - 1 iterations after U_1 (40_key_deriver.md R110). -/
def pbkdf2Block (p salt : List Byte) (c i : Nat) : List Byte :=
  let u := hmacSha1 p (salt ++ be32bytes (BitVec.ofNat 32 i))
  pbkdf2Iterate p (c - 1) u u

/-- l = ceil(dkLen / 20), the number of output blocks (40_key_deriver.md R110, R111). -/
def pbkdf2BlockCount (dkLen : Nat) : Nat := (dkLen + (Config.hashBytes - 1)) / Config.hashBytes

/-- `PBKDF2_HMAC_SHA1(P, S, c, dkLen)` (40_key_deriver.md R110). -/
def pbkdf2 (p salt : List Byte) (c dkLen : Nat) : List Byte :=
  ((List.range (pbkdf2BlockCount dkLen)).flatMap fun i => pbkdf2Block p salt c (i + 1)).take dkLen

end Sys2Proof.Machine
end

