-- ==== Sys2Proof/Machine/KeyDeriver.lean ====
section
/-! DEFINITION. The KeyDeriver: the command DERIVE (40_key_deriver.md R112 to R119). -/

namespace Sys2Proof.Machine

open Sys2Proof

/-- DK, the key material DERIVE makes from its operands (40_key_deriver.md R112). -/
def State.derivedKey (s : State) : List Byte := pbkdf2 s.passphrase s.saltString s.iter.toNat s.dklen.toNat

/-- DK in the key register, 0x00 from DKLEN on (40_key_deriver.md R112, R115). -/
def keyOfBytes (dk : List Byte) (dkLen : Nat) : Vector Byte 32 :=
  Vector.ofFn fun i => if i.val < dkLen then dk.getD i.val 0x00 else 0x00

/-- What DERIVE writes when its checks pass, before it completes: KEY, KEYLEN and PROGRESS (40_key_deriver.md R112). -/
def State.writeDerivedKey (s : State) : State :=
  { s with
    key := keyOfBytes s.derivedKey s.dklen.toNat
    keylen := s.dklen
    progress := BitVec.ofNat 32 (s.iter.toNat * pbkdf2BlockCount s.dklen.toNat) }

/-- DERIVE (40_key_deriver.md R112). -/
def execDerive (s : State) : Host.Outcome State Fault Refusal :=
  if s.deriveOperandsOk then .next (s.writeDerivedKey.complete .ok)
  else .next (s.complete .invalidParameters)

end Sys2Proof.Machine
end

