-- ==== Sys2Proof/Machine/Dispatch.lean ====
section
/-! DEFINITION. The meaning of each command: one arm per constructor of Instr (60_exceptions.md R164). -/

namespace Sys2Proof.Machine

open Sys2Proof

-- `exec i s` is the engine's one atomic step that runs command i on state s to its completion (log 12).
def exec (i : Instr) (s : State) : Host.Outcome State Fault Refusal :=
  match i with
  | .derive => Sys2Proof.Machine.execDerive s
  | .decrypt => Sys2Proof.Machine.execDecrypt s
  | .decryptFinal => Sys2Proof.Machine.execDecryptFinal s
  | .unpad => Sys2Proof.Machine.execUnpad s
  | .illegal v => Sys2Proof.Machine.execIllegal v s

end Sys2Proof.Machine
end

