-- ==== Sys2Proof/Machine/Engine.lean ====
section
/-! DEFINITION. The agents' moves: the engine's turn, and one input (00_scope.md R10; 60_exceptions.md R162 to R164; 70_reset_and_hazards.md R178). -/

namespace Sys2Proof.Machine

open Sys2Proof

/-- The command the engine holds, decoded; none when it is Idle (60_exceptions.md R162, R164). -/
def State.pendingCommand (s : State) : Option Instr := s.pcmd.map decode

/-- A turn of the engine: a Busy engine runs its command to completion in one atomic step, an Idle one does nothing
(60_exceptions.md R162, R164). -/
def State.engineTurn (s : State) : Host.Outcome State Fault Refusal :=
  match s.pendingCommand with
  | some i => exec i s
  | none => .next s

/-- One input taken from the queue (20_memory.md R73: one atomic event at a time). -/
def State.takeInput (s : State) : InputEvent → Host.Outcome State Fault Refusal
  | .host t => s.busTransaction t
  | .access a => s.hostAccess a
  | .engine => s.engineTurn
  | .reset => .next s.resetEvent

/-- The next input and what is left after it. When no input is left the engine moves (log 2). -/
def State.nextInput (s : State) : InputEvent × State :=
  match s.pending with
  | [] => (.engine, s)
  | e :: rest => (e, { s with pending := rest })

/-- The queue with the engine's turn in front of it; an empty queue has the engine's turn next already (log 9). -/
def engineFirst : List InputEvent → List InputEvent
  | [] => []
  | e :: es => .engine :: e :: es

end Sys2Proof.Machine
end

