-- ==== Sys2Proof/Machine/Step.lean ====
section
/-! DEFINITION. One step of the machine: one event (20_memory.md R73), and where a command word stands for the next step to run it. -/

namespace Sys2Proof.Machine

open Sys2Proof

/-- One atomic event: the next input of `pending`, or a turn of the engine when none is left (20_memory.md R73; log 1, log 2). -/
def step (s : State) : Host.Outcome State Fault Refusal := s.nextInput.2.takeInput s.nextInput.1

/-- s with the command word whose nbits bits are w accepted (60_exceptions.md R163) and the engine next to move, so that the
next step runs it: the core fetches nothing, a command is one CMD write taken whole (10_state.md R22; log 9). -/
def State.withFetchWord (s : State) (nbits w : Nat) : State :=
  { s.accept (tableWord nbits w) with pending := engineFirst s.pending }

end Sys2Proof.Machine
end

