-- ==== Sys2Proof/Machine/ForwardCipher.lean ====
section
/-! DEFINITION. The forward AES-256 cipher and PKCS#7 padding: test-harness functions that the statements about the round trip name. No command of the core uses them (00_scope.md R4; 93_implementation_defined.md G5; log 16). -/

namespace Sys2Proof.Machine

open Sys2Proof

/-- SubBytes (FIPS 197; PRESUMED, log 16). -/
def subBytes (s : AesBlock) : AesBlock := s.map sbox

/-- ShiftRows: row r is rotated left by r positions (FIPS 197; PRESUMED, log 16). -/
def shiftRows (s : AesBlock) : AesBlock :=
  Vector.ofFn fun i => s[i.val % 4 + 4 * ((i.val / 4 + i.val % 4) % 4)]

/-- One byte of a column after MixColumns, the first multiplier with the byte of its own row (FIPS 197; PRESUMED, log 16). -/
def mixByte (a0 a1 a2 a3 : Byte) : Byte := gmul a0 0x02 ^^^ gmul a1 0x03 ^^^ a2 ^^^ a3

/-- MixColumns (FIPS 197; PRESUMED, log 16). -/
def mixColumns (s : AesBlock) : AesBlock :=
  Vector.ofFn fun i =>
    mixByte s[i.val] s[4 * (i.val / 4) + (i.val % 4 + 1) % 4] s[4 * (i.val / 4) + (i.val % 4 + 2) % 4]
      s[4 * (i.val / 4) + (i.val % 4 + 3) % 4]

/-- n middle rounds, up to round 13 (FIPS 197; PRESUMED, log 16). -/
def forwardRounds (w : List KeyWord) : Nat → AesBlock → AesBlock
  | 0, s => s
  | n + 1, s => addRoundKey w (n + 1) (mixColumns (shiftRows (subBytes (forwardRounds w n s))))

/-- Cipher(in, w), the forward cipher (FIPS 197; PRESUMED, log 16). -/
def forwardCipher (w : List KeyWord) (s : AesBlock) : AesBlock :=
  addRoundKey w 14 (shiftRows (subBytes (forwardRounds w 13 (addRoundKey w 0 s))))

/-- n blocks encrypted on their own, concatenated in order. -/
def ecbEncryptBlocks (w : List KeyWord) : Nat → List Byte → List Byte
  | 0, _ => []
  | n + 1, bs => (forwardCipher w (blockOfBytes (bs.take 16))).toList ++ ecbEncryptBlocks w n (bs.drop 16)

/-- ECB encryption of a byte sequence whose length is a multiple of 16 (41_block_decryptor.md R141). -/
def ecbEnc (key : Vector Byte 32) (p : List Byte) : List Byte :=
  ecbEncryptBlocks (keyExpansion key) (p.length / Config.blockBytes) p

/-- The number of padding bytes, 1 to 16 (42_padding_validator.md R151). -/
def pkcs7Count (n : Nat) : Nat := 16 - n % 16

/-- A plaintext padded by the PKCS#7 rule: every padding byte equals their number (42_padding_validator.md, opening
quotation; R151). -/
def pkcs7Pad (p : List Byte) : List Byte :=
  p ++ bytesOf (pkcs7Count p.length) (BitVec.ofNat 8 (pkcs7Count p.length))

end Sys2Proof.Machine
end

