-- ==== Sys2Proof/Machine/HostProgram.lean ====
section
/-! DEFINITION. The host's assembler: its instructions and pseudo-instructions, and the transactions they expand to (30_encoding.md R86 to R88; 70_reset_and_hazards.md R187). The core does not run these; they say which inputs a host program puts in the queue. -/

namespace Sys2Proof.Machine

open Sys2Proof

/-- The buffers a LOAD can fill (30_encoding.md R88). -/
inductive Buffer where
  | key
  | pass
  | salt
  | data
deriving DecidableEq, Repr

/-- The offset of the buffer's first byte (10_state.md R23). -/
def Buffer.base : Buffer → Nat
  | .key => keyBase
  | .pass => passBase
  | .salt => saltBase
  | .data => dataBase

/-- A host instruction or pseudo-instruction (30_encoding.md R87, R88). -/
inductive HostInstr where
  /-- `WR REG, imm32`. -/
  | wr (r : Reg) (imm : Word)
  /-- `RD REG`. -/
  | rd (r : Reg)
  /-- `DERIVE`, `DECRYPT`, `DECRYPT_FINAL` or `UNPAD`, or any other command word: `WR CMD, v`. -/
  | command (i : Instr)
  /-- `WAIT`, with the number of reads of STATUS that find BUSY = 1 (log 14). -/
  | wait (polls : Nat)
  /-- `ACK`. -/
  | ack
  /-- `LOAD X, "bytes"`. -/
  | load (x : Buffer) (bytes : List Byte)
  /-- `EXPECT REG, imm32`. -/
  | expect (r : Reg) (imm : Word)
deriving DecidableEq, Repr

/-- A one-word write as an input. -/
def writeWord (off : Nat) (v : Word) : InputEvent := .host (.write off .word v)

/-- A one-word read as an input. -/
def readWord (off : Nat) : InputEvent := .host (.read off .word)

/-- The word writes of a LOAD: word j is `le32(b[4j..4j+4))`, the bytes zero-padded to a multiple of 4
(30_encoding.md R88). -/
def loadWrites (base : Nat) (bytes : List Byte) : List InputEvent :=
  (List.range ((bytes.length + 3) / 4)).map fun j =>
    writeWord (base + 4 * j)
      (le32 (bytes.getD (4 * j) 0) (bytes.getD (4 * j + 1) 0) (bytes.getD (4 * j + 2) 0) (bytes.getD (4 * j + 3) 0))

/-- The inputs a host instruction stands for. WAIT is `polls` reads that find the engine Busy, its completion step, and the
read that ends the loop; EXPECT is the read alone, its comparison is the harness's (30_encoding.md R87, R88; log 14). -/
def HostInstr.expand : HostInstr → List InputEvent
  | .wr r imm => [writeWord r.offset imm]
  | .rd r => [readWord r.offset]
  | .command i => [writeWord Reg.cmd.offset (encode i)]
  | .wait polls => List.replicate polls (readWord Reg.status.offset) ++ [.engine, readWord Reg.status.offset]
  | .ack => [writeWord Reg.status.offset 0x0000000E]
  | .load x bytes => loadWrites x.base bytes
  | .expect r _ => [readWord r.offset]

/-- An input as the platform sees it: a transaction at the port becomes the access at BASE + its offset
(20_memory.md R71). -/
def InputEvent.atBase (base : Nat) : InputEvent → InputEvent
  | .host t => .access (t.atBase base)
  | .access a => .access a
  | .engine => .engine
  | .reset => .reset

/-- The inputs of a host program, in order, at the port; `InputEvent.atBase` gives them by address. -/
def expandProgram (p : List HostInstr) : List InputEvent := p.flatMap HostInstr.expand

/-- Steps (1) to (4) of the recommended boot order: probe, load the derivation operands, DERIVE, WAIT
(70_reset_and_hazards.md R185, R187). -/
def deriveProgram (pass salt : List Byte) (iter : Word) (dklen : BitVec 8) (polls : Nat) : List HostInstr :=
  [.rd .id, .rd .version, .load .pass pass, .load .salt salt, .wr .passLen (BitVec.ofNat 32 pass.length),
    .wr .saltLen (BitVec.ofNat 32 salt.length), .wr .iter iter, .wr .dklen (dklen.setWidth 32), .command .derive,
    .wait polls]

/-- Step (5) of the recommended boot order: load a ciphertext, DECRYPT_FINAL, WAIT, read OUT_LEN
(70_reset_and_hazards.md R186, R187). -/
def decryptProgram (ciphertext : List Byte) (polls : Nat) : List HostInstr :=
  [.load .data ciphertext, .wr .dataLen (BitVec.ofNat 32 ciphertext.length), .command .decryptFinal, .wait polls,
    .rd .outLen]

end Sys2Proof.Machine
end

