-- ==== Sys2Proof/Safety.lean ====
section
/-! DEFINITION. What the claims speak of: the invariant of the machine, the frames of commands and host transactions, a run, and the outcome of a command. -/

namespace Sys2Proof.Machine

open Sys2Proof

/-- The invariant every step keeps. -/
structure State.Inv (s : State) : Prop where
  /-- DATA_BYTES is a legal value of the parameter (00_scope.md R9). -/
  legal : Config.legalDataBytes s.dataBytes
  /-- The buffer memory is in canonical form. -/
  memWf : s.mem.wf = true
  /-- It lists bytes of PASS, SALT and DATA only (10_state.md R23). -/
  memBuffers : s.mem.inBuffers s.dataBytes = true
  /-- While Busy, DONE, ERRCODE and PROGRESS are as acceptance left them (60_exceptions.md R163). -/
  busyClear : s.busy = true → s.done = false ∧ s.errcode = 0 ∧ s.progress = 0
  /-- ERRCODE is a code that is produced: 0 to 5 (60_exceptions.md R155). -/
  codeDefined : s.errcode.toNat ≤ 5
  /-- OUT_LEN never exceeds the data buffer (10_state.md R40, 41_block_decryptor.md R135). -/
  outLenFits : s.outLen.toNat ≤ s.dataBytes

/-- What no command writes: CTRL, the operand lengths, CMD_OVF, WR_BUSY, the bytes of PASS and SALT and every other byte
outside DATA[0..DATA_LEN), and the model's own fields (60_exceptions.md R165). -/
structure CommandFrame (s t : State) : Prop where
  ctrl : t.ctrl = s.ctrl
  cmdOvf : t.cmdOvf = s.cmdOvf
  wrBusy : t.wrBusy = s.wrBusy
  passLen : t.passLen = s.passLen
  saltLen : t.saltLen = s.saltLen
  iter : t.iter = s.iter
  dklen : t.dklen = s.dklen
  dataLen : t.dataLen = s.dataLen
  dataBytes : t.dataBytes = s.dataBytes
  base : t.base = s.base
  response : t.response = s.response
  pending : t.pending = s.pending
  drawIndex : t.drawIndex = s.drawIndex
  resetIndex : t.resetIndex = s.resetIndex
  outside : ∀ x, (x < dataBase ∨ dataBase + s.dataLen.toNat ≤ x) → t.byteAt x = s.byteAt x

/-- Every byte of PASS, SALT and DATA reads the same (read byte by byte). -/
def SameBuffers (s t : State) : Prop := ∀ x, t.byteAt x = s.byteAt x

/-- The reserved word offsets of the window: 0x038 to 0x03C, 0x060 to 0x07C, 0x100 to 0xFFC, and from 0x1000 + DATA_BYTES up
(20_memory.md R67). -/
def ReservedOffset (dataBytes off : Nat) : Prop :=
  (0x038 ≤ off ∧ off ≤ 0x03C) ∨ (0x060 ≤ off ∧ off ≤ 0x07C) ∨ (0x100 ≤ off ∧ off ≤ 0xFFC) ∨ 0x1000 + dataBytes ≤ off

/-- The registers a host write changes by a plain store of their defined bits: all that are read/write, STATUS and CMD left
out (20_memory.md R68, R69). -/
def Reg.plainStore : Reg → Bool
  | .ctrl | .passLen | .saltLen | .iter | .dklen | .keylen | .dataLen | .key _ | .pass _ | .salt _ | .data _ => true
  | .id | .version | .cmd | .status | .outLen | .padLen | .progress => false

/-- The defined bits of a register that a write stores: 2 of CTRL, 8 of an 8-bit length, all 32 of the others
(10_state.md R26, R34 to R39, R47). -/
def Reg.storedBits : Reg → Word
  | .ctrl => 0x00000003
  | .passLen | .saltLen | .dklen | .keylen => 0x000000FF
  | _ => 0xFFFFFFFF

/-- Byte i of a buffer as the host fills it with LOAD (30_encoding.md R88). -/
def State.bufferByte (s : State) (x : Buffer) (i : Nat) : Byte :=
  match x with
  | .key => s.key.toList.getD i 0
  | .pass | .salt | .data => s.byteAt (x.base + i)

/-- How many bytes a buffer has (10_state.md R43 to R46). -/
def Buffer.size (dataBytes : Nat) : Buffer → Nat
  | .key => 32
  | .pass => 64
  | .salt => 64
  | .data => dataBytes

/-- The result codes each command can end with (60_exceptions.md R156, the entries "yes"). -/
def allowedCodes : Instr → List (BitVec 4)
  | .derive => [0, 1]
  | .decrypt => [0, 2, 3]
  | .decryptFinal => [0, 2, 3, 4]
  | .unpad => [0, 3, 4]
  | .illegal _ => [5]

/-- Everything a command can read, and the command itself, is the same (30_encoding.md R85; 20_memory.md R69). -/
structure SameInputs (s t : State) : Prop where
  pcmd : t.pcmd = s.pcmd
  ctrl : t.ctrl = s.ctrl
  passLen : t.passLen = s.passLen
  saltLen : t.saltLen = s.saltLen
  iter : t.iter = s.iter
  dklen : t.dklen = s.dklen
  keylen : t.keylen = s.keylen
  dataLen : t.dataLen = s.dataLen
  dataBytes : t.dataBytes = s.dataBytes
  key : t.key = s.key
  buffers : SameBuffers s t

/-- Everything a command can write is the same: its results and the completion (60_exceptions.md R164, R166). -/
structure SameResults (s t : State) : Prop where
  key : t.key = s.key
  keylen : t.keylen = s.keylen
  outLen : t.outLen = s.outLen
  padLen : t.padLen = s.padLen
  progress : t.progress = s.progress
  errcode : t.errcode = s.errcode
  pcmd : t.pcmd = s.pcmd
  done : t.done = s.done
  buffers : SameBuffers s t

/-- k steps of the machine. -/
def run (k : Nat) (s : State) : Host.Outcome State Fault Refusal := Host.Core.run Sys2Proof.core k s

/-- An input a host can present: the offset of a transaction at the port fits it (10_state.md R53); an access may have any
address (20_memory.md R71). -/
def InputEvent.presentable (dataBytes : Nat) : InputEvent → Bool
  | .host t => decide (t.off < Config.windowBytes dataBytes)
  | .access _ => true
  | .engine => true
  | .reset => true

/-- The transaction an input makes at the core's port: a host transaction itself, and an access that falls in the window, its
offset relative to BASE (20_memory.md R71). -/
def State.portTransaction (s : State) : InputEvent → Option Transaction
  | .host t => some t
  | .access a => if s.inWindow a.addr then some (a.toPort s.base) else none
  | .engine => none
  | .reset => none

/-- An input that is the host's: a transaction at the port, or an access by address. -/
def InputEvent.isHost : InputEvent → Bool
  | .host _ => true
  | .access _ => true
  | .engine => false
  | .reset => false

/-- The output DATA[0..OUT_LEN) a command leaves (42_padding_validator.md R146). -/
def State.output (s : State) : List Byte := s.bytesAt dataBase s.outLen.toNat

/-- The operands DECRYPT and DECRYPT_FINAL need: a 32-byte key, and a length that is a positive multiple of 16 within the
buffer (41_block_decryptor.md R134, R135). -/
def DecryptReady (s : State) : Prop :=
  s.keylen.toNat = 32 ∧ 0 < s.dataLen.toNat ∧ s.dataLen.toNat % 16 = 0 ∧ s.dataLen.toNat ≤ s.dataBytes

/-- The operands DERIVE needs (40_key_deriver.md R112). -/
def DeriveReady (s : State) : Prop :=
  (1 ≤ s.passLen.toNat ∧ s.passLen.toNat ≤ 64) ∧ (1 ≤ s.saltLen.toNat ∧ s.saltLen.toNat ≤ 64)
    ∧ 1 ≤ s.iter.toNat ∧ (1 ≤ s.dklen.toNat ∧ s.dklen.toNat ≤ 32)

end Sys2Proof.Machine
end

