-- ==== Sys2Proof/Certificates/Slice0/Obligations.lean ====
section
/-! DEFINITION. The statements for the provers: each is a claim of the spec about the model, and cites the rule it formalises. -/

open Sys2Proof Sys2Proof.Machine

/-! Encoding -/

/-- Decoding and encoding are inverse: no bit of an encoding is dropped (30_encoding.md R82, R83). That an illegal word is
given back too is the model's: the constructor `illegal` keeps its word (DESIGN CHOICE, log 13). -/
def Obligations.DecodeEncodeInverse : Prop :=
  (∀ i : Instr, i.wellFormed = true → decode (encode i) = i)
    ∧ ∀ v : Word, (decode v).wellFormed = true ∧ encode (decode v) = v

/-- `decode(v)` in the order of 30_encoding.md R83: RSV first, then OP, and exactly four words decode to a command. -/
def Obligations.DecodeFollowsTheOpcodeMap : Prop :=
  ∀ v : Word,
    (v.extractLsb' 8 24 ≠ 0 → decode v = .illegal v)
      ∧ (v.extractLsb' 8 24 = 0 → v.extractLsb' 0 8 = 0x01 → decode v = .derive)
      ∧ (v.extractLsb' 8 24 = 0 → v.extractLsb' 0 8 = 0x02 → decode v = .decrypt)
      ∧ (v.extractLsb' 8 24 = 0 → v.extractLsb' 0 8 = 0x03 → decode v = .decryptFinal)
      ∧ (v.extractLsb' 8 24 = 0 → v.extractLsb' 0 8 = 0x04 → decode v = .unpad)
      ∧ (v.extractLsb' 8 24 = 0 → v.extractLsb' 0 8 ∉ [0x01#8, 0x02#8, 0x03#8, 0x04#8] → decode v = .illegal v)
      ∧ ((∀ u, decode v ≠ .illegal u) ↔ v ∈ [0x00000001#32, 0x00000002#32, 0x00000003#32, 0x00000004#32])

/-- Words written out from the opcode map, byte by byte as the bus lays them out, decode to the command they stand for
(30_encoding.md R82; 20_memory.md R63; 95_test_vectors.md IL-1 to IL-9). The byte form is the model's (DEDUCED, log 15). -/
def Obligations.WrittenOutWordsDecode : Prop :=
  decodeBytes [0x01, 0x00, 0x00, 0x00] = .ok .derive
    ∧ decodeBytes [0x02, 0x00, 0x00, 0x00] = .ok .decrypt
    ∧ decodeBytes [0x03, 0x00, 0x00, 0x00] = .ok .decryptFinal
    ∧ decodeBytes [0x04, 0x00, 0x00, 0x00] = .ok .unpad
    ∧ decodeBytes [0x00, 0x00, 0x00, 0x00] = .ok (.illegal 0x00000000)
    ∧ decodeBytes [0x05, 0x00, 0x00, 0x00] = .ok (.illegal 0x00000005)
    ∧ decodeBytes [0xFF, 0x00, 0x00, 0x00] = .ok (.illegal 0x000000FF)
    ∧ decodeBytes [0x01, 0x01, 0x00, 0x00] = .ok (.illegal 0x00000101)
    ∧ decodeBytes [0x03, 0x00, 0x00, 0x80] = .ok (.illegal 0x80000003)

/-- A byte string of four bytes is one command word, whose bytes encoding gives back; any other length is rejected by name
(30_encoding.md R81; the byte form is the model's, log 15). -/
def Obligations.ByteStringsDecodeWhole : Prop :=
  ∀ bs : List Byte,
    (bs.length = 4 → ∃ i, decodeBytes bs = .ok i ∧ encodeBytes i = bs)
      ∧ (bs.length ≠ 4 → decodeBytes bs = .error .notOneWord)

/-- Register names and offsets are inverse: every register that exists is found at its offset, and what is found at an
aligned offset stands there (10_state.md R23; 30_encoding.md R86). -/
def Obligations.RegisterMapInverse : Prop :=
  ∀ n : Nat, Config.legalDataBytes n →
    (∀ r : Reg, r.present n = true → regAt n r.offset = some r ∧ r.offset % 4 = 0)
      ∧ ∀ (off : Nat) (r : Reg), off % 4 = 0 → regAt n off = some r → r.offset = off ∧ r.present n = true

/-- ADDR_BITS is the least n with 2^n >= 0x1000 + DATA_BYTES, and 13 at the default (00_scope.md R9). -/
def Obligations.AddrBitsIsLeast : Prop :=
  (∀ n : Nat, Config.legalDataBytes n →
      0x1000 + n ≤ 2 ^ Config.addrBits n ∧ ∀ m, 0x1000 + n ≤ 2 ^ m → Config.addrBits n ≤ m)
    ∧ Config.addrBits Config.defaultDataBytes = 13

/-! The bus -/

/-- A misaligned transaction, or one of size 1 or 2, gets ERROR with read data 0 and changes no state
(20_memory.md R65, R66). -/
def Obligations.MalformedTransactionChangesNothing : Prop :=
  ∀ (s : State) (off : Nat) (size : BusSize) (v : Word), off < Config.windowBytes s.dataBytes →
    (off % 4 ≠ 0 ∨ size ≠ .word) →
      s.busTransaction (.read off size) = .next { s with response := some ⟨.error, some 0⟩ }
        ∧ s.busTransaction (.write off size v) = .next { s with response := some ⟨.error, none⟩ }

/-- An aligned word transaction at a reserved offset gets ERROR with read data 0 and changes no state, and the reserved
offsets are exactly those that reach no register (20_memory.md R67). -/
def Obligations.ReservedOffsetsAnswerError : Prop :=
  ∀ (s : State) (off : Nat) (v : Word), Config.legalDataBytes s.dataBytes → off % 4 = 0 →
    off < Config.windowBytes s.dataBytes →
      (busTarget s.dataBytes off .word = none ↔ ReservedOffset s.dataBytes off)
        ∧ (ReservedOffset s.dataBytes off →
            s.busTransaction (.read off .word) = .next { s with response := some ⟨.error, some 0⟩ }
              ∧ s.busTransaction (.write off .word v) = .next { s with response := some ⟨.error, none⟩ })

/-- A transaction whose offset does not fit the port's ADDR_BITS bits stops the machine with its named fault, since no host
can present it (10_state.md R53; the fault is the model's, log 8). -/
def Obligations.OffsetOutsideWindowFaults : Prop :=
  ∀ (s : State) (off : Nat) (size : BusSize) (v : Word), Config.windowBytes s.dataBytes ≤ off →
    s.busTransaction (.read off size) = .fault .offsetOutsideWindow
      ∧ s.busTransaction (.write off size v) = .fault .offsetOutsideWindow

/-- While Idle a read returns OKAY and the register's stored value, and has no side effect (20_memory.md R61). -/
def Obligations.IdleReadReturnsStoredValue : Prop :=
  ∀ (s : State) (r : Reg), Config.legalDataBytes s.dataBytes → r.present s.dataBytes = true → s.busy = false →
    s.busTransaction (.read r.offset .word) = .next { s with response := some ⟨.okay, some (s.readReg r)⟩ }

/-- What each register reads as: the constants, CMD as 0, the fields zero-extended (10_state.md R24 to R42). -/
def Obligations.RegistersReadZeroExtended : Prop :=
  ∀ s : State,
    s.readReg .id = 0x54325343 ∧ s.readReg .version = 0x00010000 ∧ s.readReg .cmd = 0
      ∧ (s.readReg .ctrl).toNat = (if s.strictPad then 1 else 0) + 2 * (if s.irqEn then 1 else 0)
      ∧ (s.readReg .passLen).toNat = s.passLen.toNat ∧ (s.readReg .saltLen).toNat = s.saltLen.toNat
      ∧ (s.readReg .dklen).toNat = s.dklen.toNat ∧ (s.readReg .keylen).toNat = s.keylen.toNat
      ∧ (s.readReg .padLen).toNat = s.padLen.toNat ∧ s.readReg .iter = s.iter ∧ s.readReg .dataLen = s.dataLen
      ∧ s.readReg .outLen = s.outLen ∧ s.readReg .progress = s.progress

/-- STATUS is `ERRCODE << 8 | WR_BUSY << 3 | CMD_OVF << 2 | DONE << 1 | BUSY`; bits [7:4] and [31:12] read 0 and writes to
them are ignored (10_state.md R33). -/
def Obligations.StatusWordLayout : Prop :=
  ∀ s : State,
    (s.readReg .status).toNat
        = 256 * s.errcode.toNat + (if s.wrBusy then 8 else 0) + (if s.cmdOvf then 4 else 0)
          + (if s.done then 2 else 0) + (if s.busy then 1 else 0)
      ∧ (s.readReg .status).extractLsb' 4 4 = 0 ∧ (s.readReg .status).extractLsb' 12 20 = 0
      ∧ ∀ v v' : Word, v.extractLsb' 1 3 = v'.extractLsb' 1 3 → s.writeReg .status v = s.writeReg .status v'

/-- The byte lanes are little-endian: word j of a buffer or of KEY shows byte 4j+k in bits [8k+7:8k], and a write of v to it
while Idle sets byte 4j+k to v[8k+7:8k] and no other byte (20_memory.md R63). -/
def Obligations.BufferWordsAreLittleEndian : Prop :=
  ∀ (s : State) (v : Word) (k : Fin 4), s.busy = false →
    (∀ j : Fin 8, (s.readReg (.key j)).extractLsb' (8 * k.val) 8 = s.key[4 * j.val + k.val]
        ∧ (s.writeReg (.key j) v).key[4 * j.val + k.val] = v.extractLsb' (8 * k.val) 8
        ∧ ∀ i : Fin 32, i.val / 4 ≠ j.val → (s.writeReg (.key j) v).key[i] = s.key[i])
      ∧ ∀ (r : Reg) (base : Nat),
          (∃ j : Fin 16, (r = .pass j ∧ base = 0x080 + 4 * j.val) ∨ (r = .salt j ∧ base = 0x0C0 + 4 * j.val))
              ∨ (∃ j : Nat, r = .data j ∧ base = 0x1000 + 4 * j) →
            (s.readReg r).extractLsb' (8 * k.val) 8 = s.byteAt (base + k.val)
              ∧ (s.writeReg r v).byteAt (base + k.val) = v.extractLsb' (8 * k.val) 8
              ∧ ∀ x, (x < base ∨ base + 4 ≤ x) → (s.writeReg r v).byteAt x = s.byteAt x

/-- A host write of a plain-store register while Idle gets OKAY, is read back with its defined bits, and changes neither what
any other register reads as nor the engine (20_memory.md R62; 10_state.md R26, R34 to R39, R43 to R47). -/
def Obligations.IdleWriteStores : Prop :=
  ∀ (s : State) (r : Reg) (v : Word), Config.legalDataBytes s.dataBytes → r.present s.dataBytes = true →
    s.busy = false → r.plainStore = true →
      ∃ t, s.busTransaction (.write r.offset .word v) = .next t ∧ t.response = some ⟨.okay, none⟩
        ∧ t.readReg r = v &&& r.storedBits ∧ (∀ r' : Reg, r' ≠ r → t.readReg r' = s.readReg r')
        ∧ t.pending = s.pending ∧ t.dataBytes = s.dataBytes ∧ t.base = s.base ∧ t.drawIndex = s.drawIndex
        ∧ t.resetIndex = s.resetIndex ∧ t.pcmd = none

/-- A host write to ID, VERSION, OUT_LEN, PAD_LEN or PROGRESS completes without error and changes nothing, while Busy too
(10_state.md R48). -/
def Obligations.ReadOnlyWritesIgnored : Prop :=
  ∀ (s : State) (r : Reg) (v : Word), Config.legalDataBytes s.dataBytes →
    r ∈ [Reg.id, Reg.version, Reg.outLen, Reg.padLen, Reg.progress] →
      s.busTransaction (.write r.offset .word v) = .next { s with response := some ⟨.okay, none⟩ }

/-- Writes while Busy: CMD is dropped and sets CMD_OVF, STATUS takes effect, a read-only register ignores it, and every other
one is dropped and sets WR_BUSY; all get OKAY (20_memory.md R69). -/
def Obligations.WritesWhileBusy : Prop :=
  ∀ (s : State) (v : Word), Config.legalDataBytes s.dataBytes → s.busy = true →
    s.busTransaction (.write 0x00C .word v) = .next { s with cmdOvf := true, response := some ⟨.okay, none⟩ }
      ∧ s.busTransaction (.write 0x010 .word v)
          = .next { s with
              done := s.done && !v.getLsbD 1, cmdOvf := s.cmdOvf && !v.getLsbD 2, wrBusy := s.wrBusy && !v.getLsbD 3,
              response := some ⟨.okay, none⟩ }
      ∧ (∀ r : Reg, r.readOnly = true →
          s.busTransaction (.write r.offset .word v) = .next { s with response := some ⟨.okay, none⟩ })
      ∧ ∀ r : Reg, r.plainStore = true → r.present s.dataBytes = true →
          s.busTransaction (.write r.offset .word v)
            = .next { s with wrBusy := true, response := some ⟨.okay, none⟩ }

/-- Reads while Busy: KEY0 to KEY7, KEYLEN, OUT_LEN, PAD_LEN, PROGRESS and DATA words return a draw, one for each read; every
other register returns its stored value (20_memory.md R70). The claim holds for every draw index. -/
def Obligations.ReadsWhileBusy : Prop :=
  ∀ (s : State) (r : Reg), Config.legalDataBytes s.dataBytes → r.present s.dataBytes = true → s.busy = true →
    ((r ∈ [Reg.keylen, Reg.outLen, Reg.padLen, Reg.progress] ∨ (∃ j, r = .key j) ∨ ∃ j, r = .data j) →
        s.busTransaction (.read r.offset .word)
          = .next { s with
              drawIndex := s.drawIndex + 1, response := some ⟨.okay, some (Config.readDraw s.drawIndex)⟩ })
      ∧ ((r ∈ [Reg.id, Reg.version, Reg.ctrl, Reg.cmd, Reg.status, Reg.passLen, Reg.saltLen, Reg.iter, Reg.dklen,
            Reg.dataLen] ∨ (∃ j, r = .pass j) ∨ ∃ j, r = .salt j) →
        s.busTransaction (.read r.offset .word) = .next { s with response := some ⟨.okay, some (s.readReg r)⟩ })

/-- Acceptance: a CMD write while Idle puts the word in PCMD, clears DONE, ERRCODE and PROGRESS, and changes nothing else; the
word is not examined (60_exceptions.md R163). -/
def Obligations.AcceptanceOfAnyWord : Prop :=
  ∀ (s : State) (v : Word), Config.legalDataBytes s.dataBytes → s.busy = false →
    s.busTransaction (.write 0x00C .word v)
      = .next { s with pcmd := some v, done := false, errcode := 0, progress := 0, response := some ⟨.okay, none⟩ }

/-- A STATUS write while Idle, of any word, clears DONE, CMD_OVF and WR_BUSY where bits 1, 2 and 3 are 1, keeps each where its
bit is 0, and changes nothing else: so 2 acknowledges a completion, which clears DONE and irq and leaves CMD_OVF and WR_BUSY,
and ACK's 0xE clears all three. Accepting the next command clears DONE too and leaves CMD_OVF and WR_BUSY
(10_state.md R29, R30, R31; 60_exceptions.md R169). -/
def Obligations.AcknowledgementClearsDone : Prop :=
  ∀ (s : State) (v : Word), Config.legalDataBytes s.dataBytes → s.busy = false →
    s.busTransaction (.write 0x010 .word v)
        = .next { s with
            done := s.done && !v.getLsbD 1, cmdOvf := s.cmdOvf && !v.getLsbD 2, wrBusy := s.wrBusy && !v.getLsbD 3,
            response := some ⟨.okay, none⟩ }
      ∧ (∃ t, s.busTransaction (.write 0x010 .word 0x00000002) = .next t ∧ t.done = false ∧ t.irq = false
          ∧ t.errcode = s.errcode ∧ t.cmdOvf = s.cmdOvf ∧ t.wrBusy = s.wrBusy)
      ∧ (∃ t, s.busTransaction (.write 0x010 .word 0x0000000E) = .next t ∧ t.done = false ∧ t.irq = false
          ∧ t.errcode = s.errcode ∧ t.cmdOvf = false ∧ t.wrBusy = false)
      ∧ ∃ t, s.busTransaction (.write 0x00C .word v) = .next t ∧ t.done = false ∧ t.cmdOvf = s.cmdOvf
          ∧ t.wrBusy = s.wrBusy

/-- The interrupt level is CTRL.IRQ_EN & STATUS.DONE: it is IRQ_EN after any completion, rises when IRQ_EN is set while DONE
is set, and falls when DONE is cleared, IRQ_EN is cleared, a command is accepted, or the core is reset
(60_exceptions.md R167). -/
def Obligations.InterruptLevel : Prop :=
  ∀ s : State,
    s.irq = (s.irqEn && s.done)
      ∧ (∀ i, ∃ t, exec i s = .next t ∧ t.irq = s.irqEn)
      ∧ (s.busy = false → s.done = true → (s.writeReg .ctrl 0x00000003).irq = true)
      ∧ (s.writeReg .status 0x00000002).irq = false
      ∧ (s.busy = false → (s.writeReg .ctrl 0x00000001).irq = false)
      ∧ (∀ v, s.busy = false → (s.writeReg .cmd v).irq = false)
      ∧ s.resetEvent.irq = false

/-! The agents and the run -/

/-- A step of a Busy machine whose next move is the engine's runs the decoded command: step is exec of it, the engine's turn
taken from the queue (60_exceptions.md R164). The queue is the model's (log 1, log 2). -/
def Obligations.StepRunsThePendingCommand : Prop :=
  ∀ (s : State) (v : Word), s.pcmd = some v →
    (s.pending = [] → step s = exec (decode v) s)
      ∧ ∀ rest, s.pending = .engine :: rest → step s = exec (decode v) { s with pending := rest }

/-- The other moves of a step: a host transaction at the port; a host access by address, which is the transaction at its offset
from BASE where it falls in the window and changes nothing of the core elsewhere; a reset; and the engine's turn while Idle,
which changes nothing (00_scope.md R10; 20_memory.md R71, R73). The queue is the model's (log 1), so is the turn of an empty
queue (DEDUCED, log 2), and the form of an access (log 10). -/
def Obligations.StepTakesTheNextInput : Prop :=
  ∀ (s : State) (rest : List InputEvent),
    (∀ t, s.pending = .host t :: rest → step s = State.busTransaction { s with pending := rest } t)
      ∧ (∀ t, t.off < Config.windowBytes s.dataBytes → s.pending = .access (t.atBase s.base) :: rest →
          step s = State.busTransaction { s with pending := rest } t)
      ∧ (∀ a, (a.addr < s.base ∨ s.base + Config.windowBytes s.dataBytes ≤ a.addr) → s.pending = .access a :: rest →
          step s = .next { s with pending := rest })
      ∧ (s.pending = .reset :: rest → step s = .next (State.resetEvent { s with pending := rest }))
      ∧ (s.busy = false → s.pending = .engine :: rest → step s = .next { s with pending := rest })
      ∧ (s.busy = false → s.pending = [] → step s = .next s)

/-- A word placed for the next step is run by it as an accepted command (60_exceptions.md R163, R164; log 9). -/
def Obligations.PlacedWordRunsNext : Prop :=
  ∀ (s : State) (w : Nat), w < 2 ^ 32 →
    decodeTableWord 32 w = some (decode (BitVec.ofNat 32 w))
      ∧ step (s.withFetchWord 32 w) = exec (decode (BitVec.ofNat 32 w)) (s.accept (BitVec.ofNat 32 w))

/-- The engine has two states and leaves them only so: Idle to Busy by an accepted CMD write, Busy to Idle by a turn of the
engine or by reset (60_exceptions.md R162). -/
def Obligations.BusyChangesOnlyAtAcceptanceAndCompletion : Prop :=
  ∀ s t : State, step s = .next t →
    (s.busy = false → t.busy = true →
        ∃ e rest v, s.pending = e :: rest ∧ s.portTransaction e = some (.write 0x00C .word v) ∧ t.pcmd = some v)
      ∧ (s.busy = true → t.busy = false →
        s.pending = [] ∨ ∃ rest, s.pending = .engine :: rest ∨ s.pending = .reset :: rest)

/-- A command's results stay until the next acceptance or a reset: no other transaction or access of a host changes ERRCODE,
OUT_LEN, PAD_LEN or PROGRESS (60_exceptions.md R170; 10_state.md R32, R40 to R42). -/
def Obligations.ResultsStayUntilNextAcceptance : Prop :=
  ∀ (s t : State) (e : InputEvent) (rest : List InputEvent), e.isHost = true → s.pending = e :: rest → step s = .next t →
    t.pcmd = s.pcmd →
      t.errcode = s.errcode ∧ t.outLen = s.outLen ∧ t.padLen = s.padLen ∧ t.progress = s.progress

/-- While Busy, host transactions and accesses change no input of the running command, and whenever the engine completes it the
results are those it would have had at the start (20_memory.md R69, R77; 70_reset_and_hazards.md R196). -/
def Obligations.RunningCommandCannotBeChanged : Prop :=
  ∀ (s : State) (es rest : List InputEvent), s.busy = true → s.pending = es ++ rest →
    (∀ e ∈ es, e.isHost = true ∧ e.presentable s.dataBytes = true) →
      ∃ t, run es.length s = .next t ∧ SameInputs s t ∧ t.pending = rest
        ∧ ∀ i, ∃ a b, exec i s = .next a ∧ exec i t = .next b ∧ SameResults a b

/-- Every accepted command completes after finitely many events unless a reset comes first: within the inputs still to come
and one more turn of the engine (70_reset_and_hazards.md R198; the bound is the model's form of fairness, log 2). -/
def Obligations.EveryAcceptedCommandCompletes : Prop :=
  ∀ s : State, s.busy = true → (∀ e ∈ s.pending, e ≠ .reset ∧ e.presentable s.dataBytes = true) →
    ∃ k t, k ≤ s.pending.length + 1 ∧ run k s = .next t ∧ t.busy = false ∧ t.done = true

/-- The invariant holds after reset. -/
def Obligations.ResetStateMeetsTheInvariant : Prop := State.reset.Inv

/-- Every step keeps the invariant: canonical memory within the buffers, nothing recorded while Busy, a defined result code, an
OUT_LEN within the buffer. -/
def Obligations.EveryStepKeepsTheInvariant : Prop := ∀ s t : State, s.Inv → step s = .next t → t.Inv

/-- The reset event, at any time, gives every register its reset value, clears KEY and KEYLEN, and abandons a running command,
so that a DECRYPT or DECRYPT_FINAL after it fails with InvalidKeyLength (70_reset_and_hazards.md R181, R182). -/
def Obligations.ResetClearsRegistersAndKey : Prop :=
  ∀ (s : State) (rest : List InputEvent), s.pending = .reset :: rest →
    ∃ t, step s = .next t
      ∧ t.readReg .id = 0x54325343 ∧ t.readReg .version = 0x00010000
      ∧ t.readReg .ctrl = 0x00000001 ∧ t.strictPad = true ∧ t.irqEn = false ∧ t.irq = false
      ∧ t.pcmd = none ∧ t.readReg .status = 0 ∧ t.done = false ∧ t.cmdOvf = false ∧ t.wrBusy = false ∧ t.errcode = 0
      ∧ t.passLen = 0 ∧ t.saltLen = 0 ∧ t.dklen = 0 ∧ t.keylen = 0 ∧ t.padLen = 0
      ∧ t.iter = 0 ∧ t.dataLen = 0 ∧ t.outLen = 0 ∧ t.progress = 0
      ∧ (∀ i : Fin 32, t.key[i] = 0x00)
      ∧ ∀ i ∈ [Instr.decrypt, Instr.decryptFinal], ∃ u, exec i t = .next u ∧ u.errcode = 2

/-- After a reset event each byte of PASS, SALT and DATA is that reset's draw, whatever it held before: a read of a buffer
word returns the draws of its bytes (70_reset_and_hazards.md R183; the form of the draws is the model's, log 4). The claim
holds for every draw. -/
def Obligations.BuffersAreDrawsAfterReset : Prop :=
  ∀ (s : State) (rest : List InputEvent), s.pending = .reset :: rest →
    ∃ t, step s = .next t ∧ t.resetIndex = s.resetIndex + 1
      ∧ (∀ x, t.byteAt x = Config.bufferDraw (s.resetIndex + 1) x)
      ∧ ∀ (k : Fin 4),
          (∀ j : Fin 16, (t.readReg (.pass j)).extractLsb' (8 * k.val) 8
              = Config.bufferDraw (s.resetIndex + 1) (0x080 + 4 * j.val + k.val)
            ∧ (t.readReg (.salt j)).extractLsb' (8 * k.val) 8
              = Config.bufferDraw (s.resetIndex + 1) (0x0C0 + 4 * j.val + k.val))
          ∧ ∀ j : Nat, (t.readReg (.data j)).extractLsb' (8 * k.val) 8
              = Config.bufferDraw (s.resetIndex + 1) (0x1000 + 4 * j + k.val)

/-- LOAD fills a buffer from its first byte on while Idle, the last word zero-padded, and touches no byte of the buffers
beyond it (30_encoding.md R88). -/
def Obligations.LoadFillsTheBuffer : Prop :=
  ∀ (s : State) (x : Buffer) (bytes : List Byte) (rest : List InputEvent), Config.legalDataBytes s.dataBytes →
    s.busy = false → bytes.length ≤ x.size s.dataBytes → s.pending = loadWrites x.base bytes ++ rest →
      ∃ t, run ((bytes.length + 3) / 4) s = .next t ∧ t.pending = rest ∧ t.busy = false
        ∧ (∀ i, i < (bytes.length + 3) / 4 * 4 → t.bufferByte x i = bytes.getD i 0)
        ∧ (∀ i, (bytes.length + 3) / 4 * 4 ≤ i → i < x.size s.dataBytes → t.bufferByte x i = s.bufferByte x i)
        ∧ ∀ (y : Buffer) (i : Nat), y ≠ x → i < y.size s.dataBytes → t.bufferByte y i = s.bufferByte y i

/-! The commands -/

/-- Each command completes from every state with one of the result codes 60_exceptions.md R156 gives it and no other, and each
of those codes occurs. -/
def Obligations.ResultCodesOfEachCommand : Prop :=
  (∀ (i : Instr) (s : State), ∃ t, exec i s = .next t ∧ t.errcode ∈ allowedCodes i)
    ∧ ∀ (i : Instr), ∀ c ∈ allowedCodes i, ∃ s t, exec i s = .next t ∧ t.errcode = c

/-- Completion: every command ends Idle with DONE set, and changes none of CTRL, the operand lengths, CMD_OVF, WR_BUSY, PASS,
SALT, DATA beyond DATA_LEN. Only DERIVE writes KEY and KEYLEN, only DECRYPT and DECRYPT_FINAL write DATA, neither DERIVE nor
an illegal word writes OUT_LEN and PAD_LEN, and neither UNPAD nor an illegal word writes PROGRESS (60_exceptions.md R158, R164,
R165; 42_padding_validator.md R147; 10_state.md R44 to R46). -/
def Obligations.CommandsChangeOnlyTheirResults : Prop :=
  ∀ (i : Instr) (s : State), ∃ t, exec i s = .next t ∧ t.pcmd = none ∧ t.busy = false ∧ t.done = true
    ∧ CommandFrame s t
    ∧ (i = .derive ∨ t.key = s.key ∧ t.keylen = s.keylen)
    ∧ (i = .decrypt ∨ i = .decryptFinal ∨ SameBuffers s t)
    ∧ (i = .decrypt ∨ i = .decryptFinal ∨ i = .unpad ∨ t.outLen = s.outLen ∧ t.padLen = s.padLen)
    ∧ (i = .derive ∨ i = .decrypt ∨ i = .decryptFinal ∨ t.progress = s.progress)

/-- DERIVE: with legal operands it writes the derived key, zero-filled, with KEYLEN and PROGRESS, and completes with OK; with
any other it completes with InvalidParameters and nothing else (40_key_deriver.md R112). -/
def Obligations.DeriveCommand : Prop :=
  ∀ s : State,
    (DeriveReady s →
      ∃ t, exec .derive s = .next t
        ∧ (∀ i : Fin 32, t.key[i] =
            if i.val < s.dklen.toNat then
              (pbkdf2 (s.bytesAt 0x080 s.passLen.toNat) (s.bytesAt 0x0C0 s.saltLen.toNat) s.iter.toNat
                s.dklen.toNat).getD i.val 0
            else 0)
        ∧ t.keylen = s.dklen
        ∧ t.progress.toNat = s.iter.toNat * ((s.dklen.toNat + 19) / 20) % 2 ^ 32
        ∧ t.errcode = 0 ∧ t.pcmd = none ∧ t.done = true ∧ t.outLen = s.outLen ∧ t.padLen = s.padLen
        ∧ CommandFrame s t ∧ SameBuffers s t)
      ∧ (¬ DeriveReady s → exec .derive s = .next { s with errcode := 1, pcmd := none, done := true })

/-- A failed DERIVE is atomic: it keeps every register but the completion's, so PROGRESS stays 0 from acceptance; an empty
passphrase or salt is such a failure (40_key_deriver.md R113, R114). -/
def Obligations.FailedDeriveIsAtomic : Prop :=
  ∀ (s : State) (v : Word),
    (s.passLen = 0 ∨ s.saltLen = 0 ∨ s.iter = 0 ∨ s.dklen = 0 ∨ 64 < s.passLen.toNat ∨ 64 < s.saltLen.toNat
        ∨ 32 < s.dklen.toNat) →
      exec .derive (s.accept v) = .next { s with errcode := 1, pcmd := none, done := true, progress := 0 }

/-- A short key is zero-filled with KEYLEN = DKLEN, and a DECRYPT or DECRYPT_FINAL after it fails with InvalidKeyLength
(40_key_deriver.md R115). -/
def Obligations.ShortKeyIsZeroFilledAndRejected : Prop :=
  ∀ s : State, DeriveReady s → s.dklen.toNat < 32 →
    ∃ t, exec .derive s = .next t ∧ t.keylen = s.dklen ∧ (∀ i : Fin 32, s.dklen.toNat ≤ i.val → t.key[i] = 0x00)
      ∧ ∀ i ∈ [Instr.decrypt, Instr.decryptFinal], ∃ u, exec i t = .next u ∧ u.errcode = 2

/-- Key-length boundaries: DK for a smaller DKLEN is a prefix of DK for a larger one; DKLEN = 20 gives T_1, and DKLEN = 21 adds
T_2[0] (40_key_deriver.md R116). -/
def Obligations.DerivedKeyPrefix : Prop :=
  ∀ (p salt : List Byte) (c : Nat), 1 ≤ c →
    (∀ d e, d ≤ e → pbkdf2 p salt c d = (pbkdf2 p salt c e).take d)
      ∧ pbkdf2BlockCount 20 = 1 ∧ pbkdf2 p salt c 20 = pbkdf2Block p salt c 1
      ∧ pbkdf2BlockCount 21 = 2 ∧ pbkdf2 p salt c 21 = pbkdf2Block p salt c 1 ++ (pbkdf2Block p salt c 2).take 1

/-- Determinism: two DERIVE commands that find the same PASS[0..PASS_LEN), SALT[0..SALT_LEN), ITER and DKLEN leave the same KEY
and KEYLEN, whatever stands in the rest of PASS and SALT (40_key_deriver.md R119, R117). -/
def Obligations.DeriveDependsOnOperandsOnly : Prop :=
  ∀ s s' : State, DeriveReady s → s'.passLen = s.passLen → s'.saltLen = s.saltLen → s'.iter = s.iter →
    s'.dklen = s.dklen → (∀ i, i < s.passLen.toNat → s'.byteAt (0x080 + i) = s.byteAt (0x080 + i)) →
    (∀ i, i < s.saltLen.toNat → s'.byteAt (0x0C0 + i) = s.byteAt (0x0C0 + i)) →
      ∃ t t', exec .derive s = .next t ∧ exec .derive s' = .next t' ∧ t'.key = t.key ∧ t'.keylen = t.keylen
        ∧ t'.progress = t.progress ∧ t'.errcode = t.errcode

/-- Iteration count: ITER = 1 gives T_i = U_1, every further iteration is one more HMAC of the last U xored in, so that T_i for
ITER = c + 1 is T_i for c xored with U_(c+1), every ITER up to 2^32 - 1 is legal, and PROGRESS wraps
(40_key_deriver.md R118, R110). -/
def Obligations.IterationCount : Prop :=
  (∀ (p salt : List Byte) (i : Nat), pbkdf2Block p salt 1 i = hmacSha1 p (salt ++ be32bytes (BitVec.ofNat 32 i)))
    ∧ (∀ (p salt : List Byte) (c i : Nat), 1 ≤ c → pbkdf2Block p salt (c + 1) i
        = xorBytes (pbkdf2Block p salt c i)
            (Nat.iterate (hmacSha1 p) c (hmacSha1 p (salt ++ be32bytes (BitVec.ofNat 32 i)))))
    ∧ (∀ (p u t : List Byte) (n : Nat), pbkdf2Iterate p (n + 1) u t
        = xorBytes (pbkdf2Iterate p n u t) (Nat.iterate (hmacSha1 p) (n + 1) u))
    ∧ ∀ s : State, DeriveReady s →
        ∃ t, exec .derive s = .next t ∧ t.errcode = 0
          ∧ (s.iter = 0xFFFFFFFF → s.dklen = 32 → t.progress = 0xFFFFFFFE)

/-- SHA-1 padding: the message, 0x80, the least number of zero bytes that makes room, and the bit length in 8 bytes; whole
blocks; 55 bytes fill one block and 56 need two (40_key_deriver.md R102). -/
def Obligations.Sha1PaddingFillsBlocks : Prop :=
  ∀ m : List Byte, ∃ k : Nat,
    sha1Pad m = m ++ [0x80] ++ List.replicate k 0x00 ++ be64bytes (8 * m.length)
      ∧ (m.length + 1 + k) % 64 = 56 ∧ (∀ j, (m.length + 1 + j) % 64 = 56 → k ≤ j)
      ∧ (sha1Pad m).length % 64 = 0
      ∧ (m.length = 55 → (sha1Pad m).length = 64) ∧ (m.length = 56 → (sha1Pad m).length = 128)

/-- The lengths of the hash functions' results: SHA-1 and HMAC-SHA1 give 20 bytes, PBKDF2 gives dkLen
(40_key_deriver.md R101, R108, R110). -/
def Obligations.DigestLengths : Prop :=
  (∀ m, (sha1 m).length = 20) ∧ (∀ k m, (hmacSha1 k m).length = 20)
    ∧ ∀ p salt c d, 1 ≤ c → (pbkdf2 p salt c d).length = d

/-- The S-box is the field inverse (0 to 0) followed by the affine map, and the inverse S-box is its inverse permutation
(41_block_decryptor.md R122, R123). -/
def Obligations.SboxesAreInverse : Prop :=
  (∀ x : Byte, ∃ b : Byte, (x = 0 ∧ b = 0 ∨ gmul x b = 1)
      ∧ sbox x = b ^^^ b.rotateLeft 1 ^^^ b.rotateLeft 2 ^^^ b.rotateLeft 3 ^^^ b.rotateLeft 4 ^^^ 0x63)
    ∧ (∀ x : Byte, invSbox (sbox x) = x) ∧ ∀ x : Byte, sbox (invSbox x) = x

/-- InvMixColumns is the matrix of 41_block_decryptor.md R130 on each column, and `mul` by 0x09, 0x0B, 0x0D and 0x0E is the
sum of powers of xtime that R121 gives. -/
def Obligations.InvMixColumnsMatrix : Prop :=
  (∀ a : Byte, gmul a 0x09 = xtime (xtime (xtime a)) ^^^ a
      ∧ gmul a 0x0B = xtime (xtime (xtime a)) ^^^ xtime a ^^^ a
      ∧ gmul a 0x0D = xtime (xtime (xtime a)) ^^^ xtime (xtime a) ^^^ a
      ∧ gmul a 0x0E = xtime (xtime (xtime a)) ^^^ xtime (xtime a) ^^^ xtime a)
    ∧ ∀ (s : AesBlock) (c : Fin 4), ∃ a0 a1 a2 a3 : Byte,
        a0 = s[4 * c.val] ∧ a1 = s[4 * c.val + 1] ∧ a2 = s[4 * c.val + 2] ∧ a3 = s[4 * c.val + 3]
          ∧ (invMixColumns s)[4 * c.val] = gmul a0 0x0E ^^^ gmul a1 0x0B ^^^ gmul a2 0x0D ^^^ gmul a3 0x09
          ∧ (invMixColumns s)[4 * c.val + 1] = gmul a0 0x09 ^^^ gmul a1 0x0E ^^^ gmul a2 0x0B ^^^ gmul a3 0x0D
          ∧ (invMixColumns s)[4 * c.val + 2] = gmul a0 0x0D ^^^ gmul a1 0x09 ^^^ gmul a2 0x0E ^^^ gmul a3 0x0B
          ∧ (invMixColumns s)[4 * c.val + 3] = gmul a0 0x0B ^^^ gmul a1 0x0D ^^^ gmul a2 0x09 ^^^ gmul a3 0x0E

/-- The key expansion: 60 words, the first 8 the key, and each later one the word 8 before it xored with the word before it,
that one rotated, substituted and xored with Rcon where i mod 8 = 0, and substituted where i mod 8 = 4; Rcon[j]
is (rc_j, 0, 0, 0), rc_1 to rc_7 are 01 to 40, each xtime of the one before (41_block_decryptor.md R126, R124). -/
def Obligations.KeyExpansionRecurrence : Prop :=
  [1, 2, 3, 4, 5, 6, 7].map rc = [0x01, 0x02, 0x04, 0x08, 0x10, 0x20, 0x40]
    ∧ (∀ j, 1 ≤ j → rc (j + 1) = xtime (rc j))
    ∧ (∀ j, rcon j = #v[rc j, 0x00, 0x00, 0x00])
    ∧ ∀ key : Vector Byte 32,
        (keyExpansion key).length = 60
          ∧ (∀ (i : Fin 8) (k : Fin 4), ((keyExpansion key).getD i.val #v[0, 0, 0, 0])[k] = key[4 * i.val + k.val])
          ∧ ∀ i, 8 ≤ i → i < 60 → ∃ prev old new : KeyWord,
              prev = (keyExpansion key).getD (i - 1) #v[0, 0, 0, 0] ∧ old = (keyExpansion key).getD (i - 8) #v[0, 0, 0, 0]
                ∧ new = (keyExpansion key).getD i #v[0, 0, 0, 0]
                ∧ (i % 8 = 0 → ∀ k : Fin 4, new[k] = old[k] ^^^ (sbox prev[(k.val + 1) % 4] ^^^ (rcon (i / 8))[k]))
                ∧ (i % 8 = 4 → ∀ k : Fin 4, new[k] = old[k] ^^^ sbox prev[k])
                ∧ (i % 8 ≠ 0 → i % 8 ≠ 4 → ∀ k : Fin 4, new[k] = old[k] ^^^ prev[k])

/-- AES256_DEC(K, .) is a permutation of the blocks for every key, and the forward cipher is its inverse
(41_block_decryptor.md R131; the forward cipher is the harness's, log 16). -/
def Obligations.InverseCipherIsAPermutation : Prop :=
  ∀ key : Vector Byte 32, Function.Bijective (aes256Dec key)
    ∧ ∀ b : AesBlock, aes256Dec key (forwardCipher (keyExpansion key) b) = b
        ∧ forwardCipher (keyExpansion key) (aes256Dec key b) = b

/-- ECB: the output has the input's length, block i of it is the decryption of block i of the input and of nothing else, and
equal input blocks give equal output blocks (41_block_decryptor.md R132, R133). -/
def Obligations.EcbBlocksAreIndependent : Prop :=
  ∀ (key : Vector Byte 32) (n : Nat) (c : List Byte), 1 ≤ n → c.length = 16 * n →
    (ecbDec key c).length = c.length
      ∧ (∀ i, i < n → ((ecbDec key c).drop (16 * i)).take 16
          = (aes256Dec key (blockOfBytes ((c.drop (16 * i)).take 16))).toList)
      ∧ ∀ i j, i < n → j < n → (c.drop (16 * i)).take 16 = (c.drop (16 * j)).take 16 →
          ((ecbDec key c).drop (16 * i)).take 16 = ((ecbDec key c).drop (16 * j)).take 16

/-- The key check: DECRYPT and DECRYPT_FINAL with KEYLEN other than 32 set OUT_LEN and PAD_LEN to 0, write nothing else, and
complete with InvalidKeyLength, whatever DATA_LEN is; with KEYLEN = 32 no KEY makes them end so
(41_block_decryptor.md R134, R137 (a)). -/
def Obligations.KeyCheckComesFirst : Prop :=
  ∀ (s : State), ∀ i ∈ [Instr.decrypt, Instr.decryptFinal],
    (s.keylen.toNat ≠ 32 →
        exec i s = .next { s with outLen := 0, padLen := 0, errcode := 2, pcmd := none, done := true })
      ∧ (s.keylen.toNat = 32 → ∃ t, exec i s = .next t ∧ t.errcode ≠ 2)

/-- The length check: DECRYPT, DECRYPT_FINAL (past the key check) and UNPAD with a DATA_LEN that is 0, no multiple of 16 or
above DATA_BYTES set OUT_LEN and PAD_LEN to 0, write nothing else, and complete with InvalidCiphertextLength; with any other
DATA_LEN none of them ends so (41_block_decryptor.md R135). -/
def Obligations.LengthCheck : Prop :=
  ∀ (s : State) (i : Instr), i = .unpad ∨ s.keylen.toNat = 32 ∧ (i = .decrypt ∨ i = .decryptFinal) →
    ((s.dataLen = 0 ∨ s.dataLen.toNat % 16 ≠ 0 ∨ s.dataBytes < s.dataLen.toNat) →
        exec i s = .next { s with outLen := 0, padLen := 0, errcode := 3, pcmd := none, done := true })
      ∧ (0 < s.dataLen.toNat → s.dataLen.toNat % 16 = 0 → s.dataLen.toNat ≤ s.dataBytes →
          ∃ t, exec i s = .next t ∧ t.errcode ≠ 3)

/-- DECRYPT past its checks: DATA[0..DATA_LEN) becomes its ECB decryption, OUT_LEN is DATA_LEN, PAD_LEN 0, PROGRESS the number
of blocks, result OK, and nothing else changes (41_block_decryptor.md R136). -/
def Obligations.DecryptCommand : Prop :=
  ∀ s : State, DecryptReady s →
    ∃ t, exec .decrypt s = .next t
      ∧ (∀ i, i < s.dataLen.toNat →
          t.byteAt (0x1000 + i) = (ecbDec s.key (s.bytesAt 0x1000 s.dataLen.toNat)).getD i 0)
      ∧ t.outLen = s.dataLen ∧ t.padLen = 0 ∧ t.progress.toNat = s.dataLen.toNat / 16
      ∧ t.errcode = 0 ∧ t.pcmd = none ∧ t.done = true ∧ t.key = s.key ∧ t.keylen = s.keylen ∧ CommandFrame s t

/-- DECRYPT_FINAL past its checks: the ECB decryption B is judged by PadCheck. Where it passes, DATA is B, OUT_LEN is
DATA_LEN - p and the result OK; where it fails, DATA[0..DATA_LEN) is zero, OUT_LEN 0 and the result PaddingError; PAD_LEN is p
and PROGRESS the number of blocks either way (41_block_decryptor.md R138, R139). -/
def Obligations.DecryptFinalCommand : Prop :=
  ∀ s : State, DecryptReady s →
    let b := ecbDec s.key (s.bytesAt 0x1000 s.dataLen.toNat)
    let p := (padCheck b s.strictPad).2
    ∃ t, exec .decryptFinal s = .next t
      ∧ t.padLen = p ∧ t.progress.toNat = s.dataLen.toNat / 16 ∧ t.pcmd = none ∧ t.done = true
      ∧ t.key = s.key ∧ t.keylen = s.keylen ∧ CommandFrame s t
      ∧ ((padCheck b s.strictPad).1 = true →
          (∀ i, i < s.dataLen.toNat → t.byteAt (0x1000 + i) = b.getD i 0)
            ∧ t.outLen.toNat + p.toNat = s.dataLen.toNat ∧ t.errcode = 0)
      ∧ ((padCheck b s.strictPad).1 = false →
          (∀ i, i < s.dataLen.toNat → t.byteAt (0x1000 + i) = 0x00) ∧ t.outLen = 0 ∧ t.errcode = 4)

/-- UNPAD past its length check: PadCheck on DATA itself; PAD_LEN is p, OUT_LEN is DATA_LEN - p with OK or 0 with
PaddingError, and neither DATA, KEY, KEYLEN nor PROGRESS changes (42_padding_validator.md R147). -/
def Obligations.UnpadCommand : Prop :=
  ∀ s : State, 0 < s.dataLen.toNat → s.dataLen.toNat % 16 = 0 → s.dataLen.toNat ≤ s.dataBytes →
    let r := padCheck (s.bytesAt 0x1000 s.dataLen.toNat) s.strictPad
    ∃ t, exec .unpad s = .next t
      ∧ t.padLen = r.2
      ∧ (r.1 = true → t.outLen.toNat + r.2.toNat = s.dataLen.toNat ∧ t.errcode = 0)
      ∧ (r.1 = false → t.outLen = 0 ∧ t.errcode = 4)
      ∧ t.pcmd = none ∧ t.done = true ∧ t.key = s.key ∧ t.keylen = s.keylen ∧ t.progress = s.progress
      ∧ CommandFrame s t ∧ SameBuffers s t

/-- An illegal word writes nothing but the completion with IllegalCommand (60_exceptions.md R158). -/
def Obligations.IllegalCommandWritesNothingElse : Prop :=
  ∀ (s : State) (v u : Word), decode v = .illegal u →
    exec (decode v) s = .next { s with errcode := 5, pcmd := none, done := true }

/-- PadCheck passes exactly when the final byte p is 1 to 16 and, if strict, the last p bytes all equal p; it answers p
either way (42_padding_validator.md R143, R144, R145). -/
def Obligations.PadCheckMeaning : Prop :=
  ∀ (b : List Byte) (strict : Bool), 0 < b.length → b.length % 16 = 0 →
    (padCheck b strict).2 = b.getD (b.length - 1) 0
      ∧ ((padCheck b strict).1 = true ↔
          (1 ≤ (b.getD (b.length - 1) 0).toNat ∧ (b.getD (b.length - 1) 0).toNat ≤ 16)
            ∧ (strict = true → ∀ k, b.length - (b.getD (b.length - 1) 0).toNat ≤ k → k < b.length →
                b.getD k 0 = b.getD (b.length - 1) 0))

/-- Only the last block matters to PadCheck (42_padding_validator.md R150). -/
def Obligations.OnlyTheLastBlockMatters : Prop :=
  ∀ (a b last : List Byte) (strict : Bool), last.length = 16 → padCheck (a ++ last) strict = padCheck (b ++ last) strict

/-- The length invariant: a DECRYPT_FINAL or UNPAD that completes with OK leaves 1 <= PAD_LEN <= 16 and
DATA_LEN - 16 <= OUT_LEN <= DATA_LEN - 1 (42_padding_validator.md R149). -/
def Obligations.LengthsAfterSuccess : Prop :=
  ∀ (s t : State) (i : Instr), i = .decryptFinal ∨ i = .unpad → exec i s = .next t → t.errcode = 0 →
    1 ≤ t.padLen.toNat ∧ t.padLen.toNat ≤ 16 ∧ s.dataLen.toNat ≤ t.outLen.toNat + 16
      ∧ t.outLen.toNat + 1 ≤ s.dataLen.toNat ∧ t.outLen.toNat + t.padLen.toNat = s.dataLen.toNat

/-- UNPAD: never changes DATA; after a successful DECRYPT it gives the OUT_LEN, PAD_LEN and result code of one DECRYPT_FINAL on
the ciphertext, and the same DATA when that is OK; it runs with any KEYLEN (42_padding_validator.md R148). -/
def Obligations.UnpadAfterDecryptIsDecryptFinal : Prop :=
  (∀ s : State, ∃ t, exec .unpad s = .next t ∧ SameBuffers s t)
    ∧ (∀ s : State, DecryptReady s →
        ∃ t u f, exec .decrypt s = .next t ∧ exec .unpad t = .next u ∧ exec .decryptFinal s = .next f
          ∧ u.outLen = f.outLen ∧ u.padLen = f.padLen ∧ u.errcode = f.errcode ∧ (f.errcode = 0 → SameBuffers u f))
    ∧ ∀ (s : State) (k : BitVec 8), ∃ t t', exec .unpad s = .next t ∧ exec .unpad { s with keylen := k } = .next t'
        ∧ t'.outLen = t.outLen ∧ t'.padLen = t.padLen ∧ t'.errcode = t.errcode ∧ SameBuffers t t'

/-- The result of DECRYPT or DECRYPT_FINAL depends only on KEYLEN, KEY, DATA_LEN, DATA[0..DATA_LEN) and, for DECRYPT_FINAL,
STRICT_PAD; DATA_BYTES is the same core's (41_block_decryptor.md R142). -/
def Obligations.DecryptionIsAPureFunction : Prop :=
  ∀ (s s' : State) (i : Instr), i = .decrypt ∨ i = .decryptFinal ∧ s'.strictPad = s.strictPad →
    s'.dataBytes = s.dataBytes → s'.keylen = s.keylen → s'.key = s.key → s'.dataLen = s.dataLen →
    (∀ j, j < s.dataLen.toNat → s'.byteAt (0x1000 + j) = s.byteAt (0x1000 + j)) →
      ∃ t t', exec i s = .next t ∧ exec i s' = .next t' ∧ t'.errcode = t.errcode ∧ t'.outLen = t.outLen
        ∧ t'.padLen = t.padLen ∧ (s'.progress = s.progress → t'.progress = t.progress)
        ∧ ∀ j, j < s.dataLen.toNat → t'.byteAt (0x1000 + j) = t.byteAt (0x1000 + j)

/-- Chunk composition: DECRYPT on every chunk but the last and DECRYPT_FINAL on the last, with the same KEY and STRICT_PAD, give
outputs whose concatenation is the output of one DECRYPT_FINAL on the whole, run on a core with room for it, and the same
result code (41_block_decryptor.md R140; 20_memory.md R80). The outputs are compared when that code is OK: with PaddingError
the one command has no output. -/
def Obligations.ChunkedDecryptionComposes : Prop :=
  ∀ (chunks : List State) (last whole : State), (∀ c ∈ chunks, DecryptReady c ∧ c.key = whole.key) →
    DecryptReady last → last.key = whole.key → last.strictPad = whole.strictPad → DecryptReady whole →
    whole.dataInput = chunks.flatMap State.dataInput ++ last.dataInput →
      ∃ (outs : List (List Byte)) (t u : State),
        List.Forall₂ (fun c o => ∃ d, exec .decrypt c = .next d ∧ d.errcode = 0 ∧ d.output = o) chunks outs
          ∧ exec .decryptFinal last = .next t ∧ exec .decryptFinal whole = .next u ∧ u.errcode = t.errcode
          ∧ (u.errcode = 0 → u.output = outs.flatten ++ t.output)

/-- Round trip: DECRYPT_FINAL on the ECB encryption of a PKCS#7-padded plaintext completes with OK and gives the plaintext
back, strict or lax (41_block_decryptor.md R141; the encryption is the harness's, log 16). -/
def Obligations.EncryptThenDecryptFinal : Prop :=
  ∀ (s : State) (plain : List Byte), s.keylen.toNat = 32 → s.dataLen.toNat ≤ s.dataBytes →
    s.dataInput = ecbEnc s.key (pkcs7Pad plain) →
      ∃ t, exec .decryptFinal s = .next t ∧ t.errcode = 0 ∧ t.output = plain
end

