-- ==== Sys2Proof/Laws/Aes.lean ====
section
/-! SUPPORT. The laws of the AES transformations: `xtime` and `mul` distribute over xor, and each inverse transformation undoes the forward one. -/

namespace Sys2Proof.Machine

open Sys2Proof

theorem xtime_xor (a b : Byte) : xtime (a ^^^ b) = xtime a ^^^ xtime b := by
  have e : ∀ a : Byte, xtime a = (a <<< 1) ^^^ (if a.getLsbD 7 then 0x1B else 0) := by
    intro a; unfold xtime; split <;> simp
  rw [e, e, e]
  have h : (a ^^^ b).getLsbD 7 = (a.getLsbD 7 ^^ b.getLsbD 7) := by simp
  rw [h, BitVec.shiftLeft_xor_distrib]
  generalize a <<< 1 = x; generalize b <<< 1 = y
  cases a.getLsbD 7 <;> cases b.getLsbD 7 <;> simp
  · ac_rfl
  · ac_rfl
  · rw [show x ^^^ 27#8 ^^^ (y ^^^ 27#8) = x ^^^ y ^^^ (27#8 ^^^ 27#8) by ac_rfl]; simp

theorem gmulFrom_xor (n k : Nat) (a b c : Byte) :
    gmulFrom n k (a ^^^ b) c = gmulFrom n k a c ^^^ gmulFrom n k b c := by
  induction n generalizing k a b with
  | zero => simp [gmulFrom]
  | succ n ih =>
    simp only [gmulFrom, xtime_xor, ih]
    cases c.getLsbD k <;> simp
    ac_rfl

theorem gmul_xor (a b c : Byte) : gmul (a ^^^ b) c = gmul a c ^^^ gmul b c := gmulFrom_xor 8 0 a b c

/-- The coefficients of one column byte after MixColumns and InvMixColumns: 1 for its own byte, 0 for the others. -/
theorem invMixColumn_coefficients (a : Byte) :
   gmul (gmul a 2) 0x0E ^^^ (gmul a 0x0B ^^^ (gmul a 0x0D ^^^ gmul (gmul a 3) 9)) = a
   ∧ gmul (gmul a 3) 0x0E ^^^ (gmul (gmul a 2) 0x0B ^^^ (gmul a 0x0D ^^^ gmul a 9)) = 0
   ∧ gmul a 0x0E ^^^ (gmul (gmul a 3) 0x0B ^^^ (gmul (gmul a 2) 0x0D ^^^ gmul a 9)) = 0
   ∧ gmul a 0x0E ^^^ (gmul a 0x0B ^^^ (gmul (gmul a 3) 0x0D ^^^ gmul (gmul a 2) 9)) = 0 := by
  revert a; decide +kernel

/-- The same in the other order. -/
theorem mixColumn_coefficients (a : Byte) :
   gmul (gmul a 0x0E) 2 ^^^ (gmul (gmul a 9) 3 ^^^ (gmul a 0x0D ^^^ gmul a 0x0B)) = a
   ∧ gmul (gmul a 0x0B) 2 ^^^ (gmul (gmul a 0x0E) 3 ^^^ (gmul a 9 ^^^ gmul a 0x0D)) = 0
   ∧ gmul (gmul a 0x0D) 2 ^^^ (gmul (gmul a 0x0B) 3 ^^^ (gmul a 0x0E ^^^ gmul a 9)) = 0
   ∧ gmul (gmul a 9) 2 ^^^ (gmul (gmul a 0x0D) 3 ^^^ (gmul a 0x0B ^^^ gmul a 0x0E)) = 0 := by
  revert a; decide +kernel

theorem invMixByte_mixByte (a0 a1 a2 a3 : Byte) :
    invMixByte (mixByte a0 a1 a2 a3) (mixByte a1 a2 a3 a0) (mixByte a2 a3 a0 a1) (mixByte a3 a0 a1 a2) = a0 := by
  have h0 := (invMixColumn_coefficients a0).1
  have h1 := (invMixColumn_coefficients a1).2.1
  have h2 := (invMixColumn_coefficients a2).2.2.1
  have h3 := (invMixColumn_coefficients a3).2.2.2
  simp only [invMixByte, mixByte, gmul_xor]
  refine Eq.trans (b := (gmul (gmul a0 2) 0x0E ^^^ (gmul a0 0x0B ^^^ (gmul a0 0x0D ^^^ gmul (gmul a0 3) 9)))
    ^^^ (gmul (gmul a1 3) 0x0E ^^^ (gmul (gmul a1 2) 0x0B ^^^ (gmul a1 0x0D ^^^ gmul a1 9)))
    ^^^ (gmul a2 0x0E ^^^ (gmul (gmul a2 3) 0x0B ^^^ (gmul (gmul a2 2) 0x0D ^^^ gmul a2 9)))
    ^^^ (gmul a3 0x0E ^^^ (gmul a3 0x0B ^^^ (gmul (gmul a3 3) 0x0D ^^^ gmul (gmul a3 2) 9)))) ?_ ?_
  · ac_rfl
  · rw [h0, h1, h2, h3]; simp

theorem mixByte_invMixByte (a0 a1 a2 a3 : Byte) :
    mixByte (invMixByte a0 a1 a2 a3) (invMixByte a1 a2 a3 a0) (invMixByte a2 a3 a0 a1) (invMixByte a3 a0 a1 a2)
      = a0 := by
  have h0 := (mixColumn_coefficients a0).1
  have h1 := (mixColumn_coefficients a1).2.1
  have h2 := (mixColumn_coefficients a2).2.2.1
  have h3 := (mixColumn_coefficients a3).2.2.2
  simp only [invMixByte, mixByte, gmul_xor]
  refine Eq.trans (b := (gmul (gmul a0 0x0E) 2 ^^^ (gmul (gmul a0 9) 3 ^^^ (gmul a0 0x0D ^^^ gmul a0 0x0B)))
    ^^^ (gmul (gmul a1 0x0B) 2 ^^^ (gmul (gmul a1 0x0E) 3 ^^^ (gmul a1 9 ^^^ gmul a1 0x0D)))
    ^^^ (gmul (gmul a2 0x0D) 2 ^^^ (gmul (gmul a2 0x0B) 3 ^^^ (gmul a2 0x0E ^^^ gmul a2 9)))
    ^^^ (gmul (gmul a3 9) 2 ^^^ (gmul (gmul a3 0x0D) 3 ^^^ (gmul a3 0x0B ^^^ gmul a3 0x0E)))) ?_ ?_
  · ac_rfl
  · rw [h0, h1, h2, h3]; simp

theorem invMixColumns_mixColumns (s : AesBlock) : invMixColumns (mixColumns s) = s := by
  apply Vector.ext
  intro i hi
  interval_cases i <;>
    simp only [invMixColumns, mixColumns, Vector.getElem_ofFn, Nat.reduceDiv, Nat.reduceMod, Nat.reduceMul,
      Nat.reduceAdd] <;>
    exact invMixByte_mixByte _ _ _ _

theorem mixColumns_invMixColumns (s : AesBlock) : mixColumns (invMixColumns s) = s := by
  apply Vector.ext
  intro i hi
  interval_cases i <;>
    simp only [invMixColumns, mixColumns, Vector.getElem_ofFn, Nat.reduceDiv, Nat.reduceMod, Nat.reduceMul,
      Nat.reduceAdd] <;>
    exact mixByte_invMixByte _ _ _ _

theorem invShiftRows_shiftRows (s : AesBlock) : invShiftRows (shiftRows s) = s := by
  apply Vector.ext
  intro i hi
  interval_cases i <;> simp [invShiftRows, shiftRows]

theorem shiftRows_invShiftRows (s : AesBlock) : shiftRows (invShiftRows s) = s := by
  apply Vector.ext
  intro i hi
  interval_cases i <;> simp [invShiftRows, shiftRows]

/-- The inverse S-box undoes the S-box (41_block_decryptor.md R123). -/
theorem invSbox_sbox_all (x : Byte) : invSbox (sbox x) = x := by revert x; decide +kernel

theorem sbox_invSbox_all (x : Byte) : sbox (invSbox x) = x := by revert x; decide +kernel

theorem invSubBytes_subBytes (s : AesBlock) : invSubBytes (subBytes s) = s := by
  apply Vector.ext; intro i hi; simp [invSubBytes, subBytes, invSbox_sbox_all]

theorem subBytes_invSubBytes (s : AesBlock) : subBytes (invSubBytes s) = s := by
  apply Vector.ext; intro i hi; simp [invSubBytes, subBytes, sbox_invSbox_all]

theorem addRoundKey_addRoundKey (w r) (s : AesBlock) : addRoundKey w r (addRoundKey w r s) = s := by
  apply Vector.ext; intro i hi; simp [addRoundKey]

/-! The key schedule -/

theorem length_keyExtend (n i ws) : (keyExtend n i ws).length = n + ws.length := by
  induction n generalizing i ws with
  | zero => simp [keyExtend]
  | succ n ih => simp [keyExtend, ih]; omega

theorem keyExtend_append (n i : Nat) (ws : List KeyWord) : ∃ pre, pre.length = n ∧ keyExtend n i ws = pre ++ ws := by
  induction n generalizing i ws with
  | zero => exact ⟨[], rfl, rfl⟩
  | succ n ih =>
    obtain ⟨pre, hp, he⟩ := ih (i+1) (xorWord (ws.getD 7 #v[0, 0, 0, 0]) (keyTemp i (ws.getD 0 #v[0, 0, 0, 0])) :: ws)
    refine ⟨pre ++ [xorWord (ws.getD 7 #v[0, 0, 0, 0]) (keyTemp i (ws.getD 0 #v[0, 0, 0, 0]))], by simp [hp], ?_⟩
    rw [keyExtend, he]; simp

/-- word j (in final order) of the schedule, by recurrence -/
theorem keyExtend_recurrence (n i : Nat) (ws : List KeyWord) (hi : ws.length = i) (h8 : 8 ≤ i) (j : Nat) (h1 : i ≤ j) (h2 : j < i + n) :
    (keyExtend n i ws).reverse.getD j #v[0,0,0,0] = xorWord ((keyExtend n i ws).reverse.getD (j - 8) #v[0,0,0,0]) (keyTemp j ((keyExtend n i ws).reverse.getD (j-1) #v[0,0,0,0])) := by
  induction n generalizing i ws with
  | zero => omega
  | succ n ih =>
    rw [keyExtend]
    by_cases hj : j = i
    · subst hj
      obtain ⟨pre, hp, he⟩ := keyExtend_append n (j+1) (xorWord (ws.getD 7 #v[0, 0, 0, 0]) (keyTemp j (ws.getD 0 #v[0, 0, 0, 0])) :: ws)
      rw [he]
      have g : ∀ (x : KeyWord) k, k < j → ((pre ++ x :: ws).reverse).getD k #v[0,0,0,0] = ws.getD (j - 1 - k) #v[0,0,0,0] := by
        intro x k hk
        simp only [List.reverse_append, List.reverse_cons, List.getD_eq_getElem?_getD, List.append_assoc]
        rw [List.getElem?_append_left (by simp [hi]; omega), List.getElem?_reverse (by omega), hi]
      rw [g _ (j-8) (by omega), g _ (j-1) (by omega)]
      have e1 : j - 1 - (j - 8) = 7 := by omega
      have e2 : j - 1 - (j - 1) = 0 := by omega
      rw [e1, e2]
      simp only [List.reverse_append, List.reverse_cons, List.getD_eq_getElem?_getD, List.append_assoc]
      rw [List.getElem?_append_right (by simp [hi])]
      simp [hi]
    · exact ih (i+1) _ (by simp [hi]) (by omega) (by omega) (by omega)

/-! Blocks and ECB -/

theorem ecbBlocks_block (w : List KeyWord) (n : Nat) (c : List Byte) (i : Nat) (hi : i < n) :
    ((ecbBlocks w n c).drop (16 * i)).take 16 = (invCipher w (blockOfBytes ((c.drop (16 * i)).take 16))).toList := by
  induction n generalizing c i with
  | zero => omega
  | succ n ih =>
    rw [ecbBlocks]
    cases i with
    | zero => simp
    | succ i =>
      rw [show 16 * (i + 1) = 16 + 16 * i by ring, ← List.drop_drop, ← List.drop_drop]
      rw [List.drop_left' (by simp)]
      exact ih _ _ (by omega)

theorem blockOfBytes_take (b : List Byte) (h : 16 ≤ b.length) : (blockOfBytes (b.take 16)).toList = b.take 16 := by
  apply List.ext_getElem
  · simp [h]
  · intro i h1 h2
    simp [blockOfBytes] at h1 h2 ⊢
    rw [List.getElem?_eq_getElem (by omega)]; rfl

theorem blockOfBytes_toList (v : AesBlock) : blockOfBytes v.toList = v := by
  apply Vector.ext
  intro i hi
  simp [blockOfBytes]

theorem length_ecbEncryptBlocks (w n bs) : (ecbEncryptBlocks w n bs).length = 16 * n := by
  induction n generalizing bs with
  | zero => rfl
  | succ n ih => simp [ecbEncryptBlocks, ih]; omega

theorem ecbBlocks_append (w : List KeyWord) (m n : Nat) (a b : List Byte) (h : a.length = 16 * m) : ecbBlocks w (m + n) (a ++ b) = ecbBlocks w m a ++ ecbBlocks w n b := by
  induction m generalizing a with
  | zero => simp at h; simp [h, ecbBlocks]
  | succ m ih =>
    rw [show m + 1 + n = (m + n) + 1 by ring, ecbBlocks, ecbBlocks]
    rw [List.take_append_of_le_length (by omega), List.drop_append_of_le_length (by omega), ih _ (by simp; omega), List.append_assoc]

end Sys2Proof.Machine
end

