-- ==== Sys2Proof/Laws/Bytes.lean ====
section
/-! SUPPORT. The laws of the byte-order conversions: lane k of a word made of four bytes is byte k, and a word is made of its lanes. -/

namespace Sys2Proof.Machine

open Sys2Proof

theorem lane_wordOfBytes (b0 b1 b2 b3 : Byte) (k : Fin 4) :
    lane (wordOfBytes b0 b1 b2 b3) k.val = [b0, b1, b2, b3].getD k.val 0 := by
  apply BitVec.eq_of_getLsbD_eq
  intro i hi
  fin_cases k <;> interval_cases i <;> simp [lane, wordOfBytes]

theorem lane_le32 (b0 b1 b2 b3 : Byte) (k : Fin 4) :
    lane (le32 b0 b1 b2 b3) k.val = [b0, b1, b2, b3].getD k.val 0 := lane_wordOfBytes b0 b1 b2 b3 k

theorem le32_lanes (v : Word) : le32 (lane v 0) (lane v 1) (lane v 2) (lane v 3) = v := by
  apply BitVec.eq_of_getLsbD_eq
  intro i hi
  interval_cases i <;> simp [lane, le32, wordOfBytes]

@[simp] theorem length_le32bytes (v : Word) : (le32bytes v).length = 4 := rfl

/-- Byte k of `le32bytes` is lane k. -/
theorem getD_le32bytes (v : Word) (k : Fin 4) : (le32bytes v).getD k.val 0 = lane v k.val := by
  fin_cases k <;> rfl

@[simp] theorem length_be32bytes (v : Word) : (be32bytes v).length = 4 := rfl

@[simp] theorem length_be64bytes (n : Nat) : (be64bytes n).length = 8 := rfl

@[simp] theorem length_bytesOf (n : Nat) (v : Byte) : (bytesOf n v).length = n := by simp [bytesOf]

@[simp] theorem length_xorBytes (a b : List Byte) : (xorBytes a b).length = min a.length b.length := by
  simp [xorBytes]

end Sys2Proof.Machine
end

