-- ==== Sys2Proof/Laws/State.lean ====
section
/-! SUPPORT. The small lemmas of the state's updates: one for each field of each named update, so that no proof unfolds a record update. -/

namespace Sys2Proof.Machine

open Sys2Proof

/-! Acceptance (60_exceptions.md R163) -/

@[simp] theorem State.accept_ctrl (s : State) (v : Word) : (s.accept v).ctrl = s.ctrl := rfl
@[simp] theorem State.accept_done (s : State) (v : Word) : (s.accept v).done = false := rfl
@[simp] theorem State.accept_cmdOvf (s : State) (v : Word) : (s.accept v).cmdOvf = s.cmdOvf := rfl
@[simp] theorem State.accept_wrBusy (s : State) (v : Word) : (s.accept v).wrBusy = s.wrBusy := rfl
@[simp] theorem State.accept_errcode (s : State) (v : Word) : (s.accept v).errcode = 0 := rfl
@[simp] theorem State.accept_pcmd (s : State) (v : Word) : (s.accept v).pcmd = some v := rfl
@[simp] theorem State.accept_passLen (s : State) (v : Word) : (s.accept v).passLen = s.passLen := rfl
@[simp] theorem State.accept_saltLen (s : State) (v : Word) : (s.accept v).saltLen = s.saltLen := rfl
@[simp] theorem State.accept_iter (s : State) (v : Word) : (s.accept v).iter = s.iter := rfl
@[simp] theorem State.accept_dklen (s : State) (v : Word) : (s.accept v).dklen = s.dklen := rfl
@[simp] theorem State.accept_keylen (s : State) (v : Word) : (s.accept v).keylen = s.keylen := rfl
@[simp] theorem State.accept_dataLen (s : State) (v : Word) : (s.accept v).dataLen = s.dataLen := rfl
@[simp] theorem State.accept_outLen (s : State) (v : Word) : (s.accept v).outLen = s.outLen := rfl
@[simp] theorem State.accept_padLen (s : State) (v : Word) : (s.accept v).padLen = s.padLen := rfl
@[simp] theorem State.accept_progress (s : State) (v : Word) : (s.accept v).progress = 0 := rfl
@[simp] theorem State.accept_key (s : State) (v : Word) : (s.accept v).key = s.key := rfl
@[simp] theorem State.accept_mem (s : State) (v : Word) : (s.accept v).mem = s.mem := rfl
@[simp] theorem State.accept_dataBytes (s : State) (v : Word) : (s.accept v).dataBytes = s.dataBytes := rfl
@[simp] theorem State.accept_base (s : State) (v : Word) : (s.accept v).base = s.base := rfl
@[simp] theorem State.accept_response (s : State) (v : Word) : (s.accept v).response = s.response := rfl
@[simp] theorem State.accept_pending (s : State) (v : Word) : (s.accept v).pending = s.pending := rfl
@[simp] theorem State.accept_drawIndex (s : State) (v : Word) : (s.accept v).drawIndex = s.drawIndex := rfl
@[simp] theorem State.accept_resetIndex (s : State) (v : Word) : (s.accept v).resetIndex = s.resetIndex := rfl
@[simp] theorem State.accept_busy (s : State) (v : Word) : (s.accept v).busy = true := rfl
@[simp] theorem State.accept_strictPad (s : State) (v : Word) : (s.accept v).strictPad = s.strictPad := rfl
@[simp] theorem State.accept_irqEn (s : State) (v : Word) : (s.accept v).irqEn = s.irqEn := rfl
@[simp] theorem State.accept_byteAt (s : State) (v : Word) (y : Nat) : (s.accept v).byteAt y = s.byteAt y := rfl
@[simp] theorem State.accept_bytesAt (s : State) (v : Word) (y n : Nat) : (s.accept v).bytesAt y n = s.bytesAt y n := rfl

/-! Completion (60_exceptions.md R164) -/

@[simp] theorem State.complete_ctrl (s : State) (c : ResultCode) : (s.complete c).ctrl = s.ctrl := rfl
@[simp] theorem State.complete_done (s : State) (c : ResultCode) : (s.complete c).done = true := rfl
@[simp] theorem State.complete_cmdOvf (s : State) (c : ResultCode) : (s.complete c).cmdOvf = s.cmdOvf := rfl
@[simp] theorem State.complete_wrBusy (s : State) (c : ResultCode) : (s.complete c).wrBusy = s.wrBusy := rfl
@[simp] theorem State.complete_errcode (s : State) (c : ResultCode) : (s.complete c).errcode = c.code := rfl
@[simp] theorem State.complete_pcmd (s : State) (c : ResultCode) : (s.complete c).pcmd = none := rfl
@[simp] theorem State.complete_passLen (s : State) (c : ResultCode) : (s.complete c).passLen = s.passLen := rfl
@[simp] theorem State.complete_saltLen (s : State) (c : ResultCode) : (s.complete c).saltLen = s.saltLen := rfl
@[simp] theorem State.complete_iter (s : State) (c : ResultCode) : (s.complete c).iter = s.iter := rfl
@[simp] theorem State.complete_dklen (s : State) (c : ResultCode) : (s.complete c).dklen = s.dklen := rfl
@[simp] theorem State.complete_keylen (s : State) (c : ResultCode) : (s.complete c).keylen = s.keylen := rfl
@[simp] theorem State.complete_dataLen (s : State) (c : ResultCode) : (s.complete c).dataLen = s.dataLen := rfl
@[simp] theorem State.complete_outLen (s : State) (c : ResultCode) : (s.complete c).outLen = s.outLen := rfl
@[simp] theorem State.complete_padLen (s : State) (c : ResultCode) : (s.complete c).padLen = s.padLen := rfl
@[simp] theorem State.complete_progress (s : State) (c : ResultCode) : (s.complete c).progress = s.progress := rfl
@[simp] theorem State.complete_key (s : State) (c : ResultCode) : (s.complete c).key = s.key := rfl
@[simp] theorem State.complete_mem (s : State) (c : ResultCode) : (s.complete c).mem = s.mem := rfl
@[simp] theorem State.complete_dataBytes (s : State) (c : ResultCode) : (s.complete c).dataBytes = s.dataBytes := rfl
@[simp] theorem State.complete_base (s : State) (c : ResultCode) : (s.complete c).base = s.base := rfl
@[simp] theorem State.complete_response (s : State) (c : ResultCode) : (s.complete c).response = s.response := rfl
@[simp] theorem State.complete_pending (s : State) (c : ResultCode) : (s.complete c).pending = s.pending := rfl
@[simp] theorem State.complete_drawIndex (s : State) (c : ResultCode) : (s.complete c).drawIndex = s.drawIndex := rfl
@[simp] theorem State.complete_resetIndex (s : State) (c : ResultCode) : (s.complete c).resetIndex = s.resetIndex := rfl
@[simp] theorem State.complete_busy (s : State) (c : ResultCode) : (s.complete c).busy = false := rfl
@[simp] theorem State.complete_strictPad (s : State) (c : ResultCode) : (s.complete c).strictPad = s.strictPad := rfl
@[simp] theorem State.complete_irqEn (s : State) (c : ResultCode) : (s.complete c).irqEn = s.irqEn := rfl
@[simp] theorem State.complete_byteAt (s : State) (c : ResultCode) (y : Nat) : (s.complete c).byteAt y = s.byteAt y := rfl
@[simp] theorem State.complete_bytesAt (s : State) (c : ResultCode) (y n : Nat) : (s.complete c).bytesAt y n = s.bytesAt y n := rfl

/-! A STATUS write (10_state.md R29 to R31) -/

@[simp] theorem State.writeStatus_ctrl (s : State) (v : Word) : (s.writeStatus v).ctrl = s.ctrl := rfl
@[simp] theorem State.writeStatus_done (s : State) (v : Word) : (s.writeStatus v).done = (s.done && !v.getLsbD 1) := rfl
@[simp] theorem State.writeStatus_cmdOvf (s : State) (v : Word) : (s.writeStatus v).cmdOvf = (s.cmdOvf && !v.getLsbD 2) := rfl
@[simp] theorem State.writeStatus_wrBusy (s : State) (v : Word) : (s.writeStatus v).wrBusy = (s.wrBusy && !v.getLsbD 3) := rfl
@[simp] theorem State.writeStatus_errcode (s : State) (v : Word) : (s.writeStatus v).errcode = s.errcode := rfl
@[simp] theorem State.writeStatus_pcmd (s : State) (v : Word) : (s.writeStatus v).pcmd = s.pcmd := rfl
@[simp] theorem State.writeStatus_passLen (s : State) (v : Word) : (s.writeStatus v).passLen = s.passLen := rfl
@[simp] theorem State.writeStatus_saltLen (s : State) (v : Word) : (s.writeStatus v).saltLen = s.saltLen := rfl
@[simp] theorem State.writeStatus_iter (s : State) (v : Word) : (s.writeStatus v).iter = s.iter := rfl
@[simp] theorem State.writeStatus_dklen (s : State) (v : Word) : (s.writeStatus v).dklen = s.dklen := rfl
@[simp] theorem State.writeStatus_keylen (s : State) (v : Word) : (s.writeStatus v).keylen = s.keylen := rfl
@[simp] theorem State.writeStatus_dataLen (s : State) (v : Word) : (s.writeStatus v).dataLen = s.dataLen := rfl
@[simp] theorem State.writeStatus_outLen (s : State) (v : Word) : (s.writeStatus v).outLen = s.outLen := rfl
@[simp] theorem State.writeStatus_padLen (s : State) (v : Word) : (s.writeStatus v).padLen = s.padLen := rfl
@[simp] theorem State.writeStatus_progress (s : State) (v : Word) : (s.writeStatus v).progress = s.progress := rfl
@[simp] theorem State.writeStatus_key (s : State) (v : Word) : (s.writeStatus v).key = s.key := rfl
@[simp] theorem State.writeStatus_mem (s : State) (v : Word) : (s.writeStatus v).mem = s.mem := rfl
@[simp] theorem State.writeStatus_dataBytes (s : State) (v : Word) : (s.writeStatus v).dataBytes = s.dataBytes := rfl
@[simp] theorem State.writeStatus_base (s : State) (v : Word) : (s.writeStatus v).base = s.base := rfl
@[simp] theorem State.writeStatus_response (s : State) (v : Word) : (s.writeStatus v).response = s.response := rfl
@[simp] theorem State.writeStatus_pending (s : State) (v : Word) : (s.writeStatus v).pending = s.pending := rfl
@[simp] theorem State.writeStatus_drawIndex (s : State) (v : Word) : (s.writeStatus v).drawIndex = s.drawIndex := rfl
@[simp] theorem State.writeStatus_resetIndex (s : State) (v : Word) : (s.writeStatus v).resetIndex = s.resetIndex := rfl
@[simp] theorem State.writeStatus_busy (s : State) (v : Word) : (s.writeStatus v).busy = s.busy := rfl
@[simp] theorem State.writeStatus_strictPad (s : State) (v : Word) : (s.writeStatus v).strictPad = s.strictPad := rfl
@[simp] theorem State.writeStatus_irqEn (s : State) (v : Word) : (s.writeStatus v).irqEn = s.irqEn := rfl
@[simp] theorem State.writeStatus_byteAt (s : State) (v : Word) (y : Nat) : (s.writeStatus v).byteAt y = s.byteAt y := rfl
@[simp] theorem State.writeStatus_bytesAt (s : State) (v : Word) (y n : Nat) : (s.writeStatus v).bytesAt y n = s.bytesAt y n := rfl

/-! The answer of the port (10_state.md R53) -/

@[simp] theorem State.respond_ctrl (s : State) (r : Resp) (d : Option Word) : (s.respond r d).ctrl = s.ctrl := rfl
@[simp] theorem State.respond_done (s : State) (r : Resp) (d : Option Word) : (s.respond r d).done = s.done := rfl
@[simp] theorem State.respond_cmdOvf (s : State) (r : Resp) (d : Option Word) : (s.respond r d).cmdOvf = s.cmdOvf := rfl
@[simp] theorem State.respond_wrBusy (s : State) (r : Resp) (d : Option Word) : (s.respond r d).wrBusy = s.wrBusy := rfl
@[simp] theorem State.respond_errcode (s : State) (r : Resp) (d : Option Word) : (s.respond r d).errcode = s.errcode := rfl
@[simp] theorem State.respond_pcmd (s : State) (r : Resp) (d : Option Word) : (s.respond r d).pcmd = s.pcmd := rfl
@[simp] theorem State.respond_passLen (s : State) (r : Resp) (d : Option Word) : (s.respond r d).passLen = s.passLen := rfl
@[simp] theorem State.respond_saltLen (s : State) (r : Resp) (d : Option Word) : (s.respond r d).saltLen = s.saltLen := rfl
@[simp] theorem State.respond_iter (s : State) (r : Resp) (d : Option Word) : (s.respond r d).iter = s.iter := rfl
@[simp] theorem State.respond_dklen (s : State) (r : Resp) (d : Option Word) : (s.respond r d).dklen = s.dklen := rfl
@[simp] theorem State.respond_keylen (s : State) (r : Resp) (d : Option Word) : (s.respond r d).keylen = s.keylen := rfl
@[simp] theorem State.respond_dataLen (s : State) (r : Resp) (d : Option Word) : (s.respond r d).dataLen = s.dataLen := rfl
@[simp] theorem State.respond_outLen (s : State) (r : Resp) (d : Option Word) : (s.respond r d).outLen = s.outLen := rfl
@[simp] theorem State.respond_padLen (s : State) (r : Resp) (d : Option Word) : (s.respond r d).padLen = s.padLen := rfl
@[simp] theorem State.respond_progress (s : State) (r : Resp) (d : Option Word) : (s.respond r d).progress = s.progress := rfl
@[simp] theorem State.respond_key (s : State) (r : Resp) (d : Option Word) : (s.respond r d).key = s.key := rfl
@[simp] theorem State.respond_mem (s : State) (r : Resp) (d : Option Word) : (s.respond r d).mem = s.mem := rfl
@[simp] theorem State.respond_dataBytes (s : State) (r : Resp) (d : Option Word) : (s.respond r d).dataBytes = s.dataBytes := rfl
@[simp] theorem State.respond_base (s : State) (r : Resp) (d : Option Word) : (s.respond r d).base = s.base := rfl
@[simp] theorem State.respond_response (s : State) (r : Resp) (d : Option Word) : (s.respond r d).response = some ⟨r, d⟩ := rfl
@[simp] theorem State.respond_pending (s : State) (r : Resp) (d : Option Word) : (s.respond r d).pending = s.pending := rfl
@[simp] theorem State.respond_drawIndex (s : State) (r : Resp) (d : Option Word) : (s.respond r d).drawIndex = s.drawIndex := rfl
@[simp] theorem State.respond_resetIndex (s : State) (r : Resp) (d : Option Word) : (s.respond r d).resetIndex = s.resetIndex := rfl
@[simp] theorem State.respond_busy (s : State) (r : Resp) (d : Option Word) : (s.respond r d).busy = s.busy := rfl
@[simp] theorem State.respond_strictPad (s : State) (r : Resp) (d : Option Word) : (s.respond r d).strictPad = s.strictPad := rfl
@[simp] theorem State.respond_irqEn (s : State) (r : Resp) (d : Option Word) : (s.respond r d).irqEn = s.irqEn := rfl
@[simp] theorem State.respond_byteAt (s : State) (r : Resp) (d : Option Word) (y : Nat) : (s.respond r d).byteAt y = s.byteAt y := rfl
@[simp] theorem State.respond_bytesAt (s : State) (r : Resp) (d : Option Word) (y n : Nat) : (s.respond r d).bytesAt y n = s.bytesAt y n := rfl

/-! A consumed read draw (20_memory.md R70) -/

@[simp] theorem State.nextDraw_ctrl (s : State) : (s.nextDraw).ctrl = s.ctrl := rfl
@[simp] theorem State.nextDraw_done (s : State) : (s.nextDraw).done = s.done := rfl
@[simp] theorem State.nextDraw_cmdOvf (s : State) : (s.nextDraw).cmdOvf = s.cmdOvf := rfl
@[simp] theorem State.nextDraw_wrBusy (s : State) : (s.nextDraw).wrBusy = s.wrBusy := rfl
@[simp] theorem State.nextDraw_errcode (s : State) : (s.nextDraw).errcode = s.errcode := rfl
@[simp] theorem State.nextDraw_pcmd (s : State) : (s.nextDraw).pcmd = s.pcmd := rfl
@[simp] theorem State.nextDraw_passLen (s : State) : (s.nextDraw).passLen = s.passLen := rfl
@[simp] theorem State.nextDraw_saltLen (s : State) : (s.nextDraw).saltLen = s.saltLen := rfl
@[simp] theorem State.nextDraw_iter (s : State) : (s.nextDraw).iter = s.iter := rfl
@[simp] theorem State.nextDraw_dklen (s : State) : (s.nextDraw).dklen = s.dklen := rfl
@[simp] theorem State.nextDraw_keylen (s : State) : (s.nextDraw).keylen = s.keylen := rfl
@[simp] theorem State.nextDraw_dataLen (s : State) : (s.nextDraw).dataLen = s.dataLen := rfl
@[simp] theorem State.nextDraw_outLen (s : State) : (s.nextDraw).outLen = s.outLen := rfl
@[simp] theorem State.nextDraw_padLen (s : State) : (s.nextDraw).padLen = s.padLen := rfl
@[simp] theorem State.nextDraw_progress (s : State) : (s.nextDraw).progress = s.progress := rfl
@[simp] theorem State.nextDraw_key (s : State) : (s.nextDraw).key = s.key := rfl
@[simp] theorem State.nextDraw_mem (s : State) : (s.nextDraw).mem = s.mem := rfl
@[simp] theorem State.nextDraw_dataBytes (s : State) : (s.nextDraw).dataBytes = s.dataBytes := rfl
@[simp] theorem State.nextDraw_base (s : State) : (s.nextDraw).base = s.base := rfl
@[simp] theorem State.nextDraw_response (s : State) : (s.nextDraw).response = s.response := rfl
@[simp] theorem State.nextDraw_pending (s : State) : (s.nextDraw).pending = s.pending := rfl
@[simp] theorem State.nextDraw_drawIndex (s : State) : (s.nextDraw).drawIndex = s.drawIndex + 1 := rfl
@[simp] theorem State.nextDraw_resetIndex (s : State) : (s.nextDraw).resetIndex = s.resetIndex := rfl
@[simp] theorem State.nextDraw_busy (s : State) : (s.nextDraw).busy = s.busy := rfl
@[simp] theorem State.nextDraw_strictPad (s : State) : (s.nextDraw).strictPad = s.strictPad := rfl
@[simp] theorem State.nextDraw_irqEn (s : State) : (s.nextDraw).irqEn = s.irqEn := rfl
@[simp] theorem State.nextDraw_byteAt (s : State) (y : Nat) : (s.nextDraw).byteAt y = s.byteAt y := rfl
@[simp] theorem State.nextDraw_bytesAt (s : State) (y n : Nat) : (s.nextDraw).bytesAt y n = s.bytesAt y n := rfl

/-! A store into the buffers -/

@[simp] theorem State.storeBytes_ctrl (s : State) (x : Nat) (bs : List Byte) : (s.storeBytes x bs).ctrl = s.ctrl := rfl
@[simp] theorem State.storeBytes_done (s : State) (x : Nat) (bs : List Byte) : (s.storeBytes x bs).done = s.done := rfl
@[simp] theorem State.storeBytes_cmdOvf (s : State) (x : Nat) (bs : List Byte) : (s.storeBytes x bs).cmdOvf = s.cmdOvf := rfl
@[simp] theorem State.storeBytes_wrBusy (s : State) (x : Nat) (bs : List Byte) : (s.storeBytes x bs).wrBusy = s.wrBusy := rfl
@[simp] theorem State.storeBytes_errcode (s : State) (x : Nat) (bs : List Byte) : (s.storeBytes x bs).errcode = s.errcode := rfl
@[simp] theorem State.storeBytes_pcmd (s : State) (x : Nat) (bs : List Byte) : (s.storeBytes x bs).pcmd = s.pcmd := rfl
@[simp] theorem State.storeBytes_passLen (s : State) (x : Nat) (bs : List Byte) : (s.storeBytes x bs).passLen = s.passLen := rfl
@[simp] theorem State.storeBytes_saltLen (s : State) (x : Nat) (bs : List Byte) : (s.storeBytes x bs).saltLen = s.saltLen := rfl
@[simp] theorem State.storeBytes_iter (s : State) (x : Nat) (bs : List Byte) : (s.storeBytes x bs).iter = s.iter := rfl
@[simp] theorem State.storeBytes_dklen (s : State) (x : Nat) (bs : List Byte) : (s.storeBytes x bs).dklen = s.dklen := rfl
@[simp] theorem State.storeBytes_keylen (s : State) (x : Nat) (bs : List Byte) : (s.storeBytes x bs).keylen = s.keylen := rfl
@[simp] theorem State.storeBytes_dataLen (s : State) (x : Nat) (bs : List Byte) : (s.storeBytes x bs).dataLen = s.dataLen := rfl
@[simp] theorem State.storeBytes_outLen (s : State) (x : Nat) (bs : List Byte) : (s.storeBytes x bs).outLen = s.outLen := rfl
@[simp] theorem State.storeBytes_padLen (s : State) (x : Nat) (bs : List Byte) : (s.storeBytes x bs).padLen = s.padLen := rfl
@[simp] theorem State.storeBytes_progress (s : State) (x : Nat) (bs : List Byte) : (s.storeBytes x bs).progress = s.progress := rfl
@[simp] theorem State.storeBytes_key (s : State) (x : Nat) (bs : List Byte) : (s.storeBytes x bs).key = s.key := rfl
@[simp] theorem State.storeBytes_mem (s : State) (x : Nat) (bs : List Byte) : (s.storeBytes x bs).mem = s.mem.writeBytes x bs := rfl
@[simp] theorem State.storeBytes_dataBytes (s : State) (x : Nat) (bs : List Byte) : (s.storeBytes x bs).dataBytes = s.dataBytes := rfl
@[simp] theorem State.storeBytes_base (s : State) (x : Nat) (bs : List Byte) : (s.storeBytes x bs).base = s.base := rfl
@[simp] theorem State.storeBytes_response (s : State) (x : Nat) (bs : List Byte) : (s.storeBytes x bs).response = s.response := rfl
@[simp] theorem State.storeBytes_pending (s : State) (x : Nat) (bs : List Byte) : (s.storeBytes x bs).pending = s.pending := rfl
@[simp] theorem State.storeBytes_drawIndex (s : State) (x : Nat) (bs : List Byte) : (s.storeBytes x bs).drawIndex = s.drawIndex := rfl
@[simp] theorem State.storeBytes_resetIndex (s : State) (x : Nat) (bs : List Byte) : (s.storeBytes x bs).resetIndex = s.resetIndex := rfl
@[simp] theorem State.storeBytes_busy (s : State) (x : Nat) (bs : List Byte) : (s.storeBytes x bs).busy = s.busy := rfl
@[simp] theorem State.storeBytes_strictPad (s : State) (x : Nat) (bs : List Byte) : (s.storeBytes x bs).strictPad = s.strictPad := rfl
@[simp] theorem State.storeBytes_irqEn (s : State) (x : Nat) (bs : List Byte) : (s.storeBytes x bs).irqEn = s.irqEn := rfl

/-! A failed key or length check (41_block_decryptor.md R134, R135) -/

@[simp] theorem State.clearLengths_ctrl (s : State) : (s.clearLengths).ctrl = s.ctrl := rfl
@[simp] theorem State.clearLengths_done (s : State) : (s.clearLengths).done = s.done := rfl
@[simp] theorem State.clearLengths_cmdOvf (s : State) : (s.clearLengths).cmdOvf = s.cmdOvf := rfl
@[simp] theorem State.clearLengths_wrBusy (s : State) : (s.clearLengths).wrBusy = s.wrBusy := rfl
@[simp] theorem State.clearLengths_errcode (s : State) : (s.clearLengths).errcode = s.errcode := rfl
@[simp] theorem State.clearLengths_pcmd (s : State) : (s.clearLengths).pcmd = s.pcmd := rfl
@[simp] theorem State.clearLengths_passLen (s : State) : (s.clearLengths).passLen = s.passLen := rfl
@[simp] theorem State.clearLengths_saltLen (s : State) : (s.clearLengths).saltLen = s.saltLen := rfl
@[simp] theorem State.clearLengths_iter (s : State) : (s.clearLengths).iter = s.iter := rfl
@[simp] theorem State.clearLengths_dklen (s : State) : (s.clearLengths).dklen = s.dklen := rfl
@[simp] theorem State.clearLengths_keylen (s : State) : (s.clearLengths).keylen = s.keylen := rfl
@[simp] theorem State.clearLengths_dataLen (s : State) : (s.clearLengths).dataLen = s.dataLen := rfl
@[simp] theorem State.clearLengths_outLen (s : State) : (s.clearLengths).outLen = 0 := rfl
@[simp] theorem State.clearLengths_padLen (s : State) : (s.clearLengths).padLen = 0 := rfl
@[simp] theorem State.clearLengths_progress (s : State) : (s.clearLengths).progress = s.progress := rfl
@[simp] theorem State.clearLengths_key (s : State) : (s.clearLengths).key = s.key := rfl
@[simp] theorem State.clearLengths_mem (s : State) : (s.clearLengths).mem = s.mem := rfl
@[simp] theorem State.clearLengths_dataBytes (s : State) : (s.clearLengths).dataBytes = s.dataBytes := rfl
@[simp] theorem State.clearLengths_base (s : State) : (s.clearLengths).base = s.base := rfl
@[simp] theorem State.clearLengths_response (s : State) : (s.clearLengths).response = s.response := rfl
@[simp] theorem State.clearLengths_pending (s : State) : (s.clearLengths).pending = s.pending := rfl
@[simp] theorem State.clearLengths_drawIndex (s : State) : (s.clearLengths).drawIndex = s.drawIndex := rfl
@[simp] theorem State.clearLengths_resetIndex (s : State) : (s.clearLengths).resetIndex = s.resetIndex := rfl
@[simp] theorem State.clearLengths_busy (s : State) : (s.clearLengths).busy = s.busy := rfl
@[simp] theorem State.clearLengths_strictPad (s : State) : (s.clearLengths).strictPad = s.strictPad := rfl
@[simp] theorem State.clearLengths_irqEn (s : State) : (s.clearLengths).irqEn = s.irqEn := rfl
@[simp] theorem State.clearLengths_byteAt (s : State) (y : Nat) : (s.clearLengths).byteAt y = s.byteAt y := rfl
@[simp] theorem State.clearLengths_bytesAt (s : State) (y n : Nat) : (s.clearLengths).bytesAt y n = s.bytesAt y n := rfl

/-! The record of a padding check (42_padding_validator.md R146, R147) -/

@[simp] theorem State.recordPadding_ctrl (s : State) (ok : Bool) (p : Byte) : (s.recordPadding ok p).ctrl = s.ctrl := rfl
@[simp] theorem State.recordPadding_done (s : State) (ok : Bool) (p : Byte) : (s.recordPadding ok p).done = s.done := rfl
@[simp] theorem State.recordPadding_cmdOvf (s : State) (ok : Bool) (p : Byte) : (s.recordPadding ok p).cmdOvf = s.cmdOvf := rfl
@[simp] theorem State.recordPadding_wrBusy (s : State) (ok : Bool) (p : Byte) : (s.recordPadding ok p).wrBusy = s.wrBusy := rfl
@[simp] theorem State.recordPadding_errcode (s : State) (ok : Bool) (p : Byte) : (s.recordPadding ok p).errcode = s.errcode := rfl
@[simp] theorem State.recordPadding_pcmd (s : State) (ok : Bool) (p : Byte) : (s.recordPadding ok p).pcmd = s.pcmd := rfl
@[simp] theorem State.recordPadding_passLen (s : State) (ok : Bool) (p : Byte) : (s.recordPadding ok p).passLen = s.passLen := rfl
@[simp] theorem State.recordPadding_saltLen (s : State) (ok : Bool) (p : Byte) : (s.recordPadding ok p).saltLen = s.saltLen := rfl
@[simp] theorem State.recordPadding_iter (s : State) (ok : Bool) (p : Byte) : (s.recordPadding ok p).iter = s.iter := rfl
@[simp] theorem State.recordPadding_dklen (s : State) (ok : Bool) (p : Byte) : (s.recordPadding ok p).dklen = s.dklen := rfl
@[simp] theorem State.recordPadding_keylen (s : State) (ok : Bool) (p : Byte) : (s.recordPadding ok p).keylen = s.keylen := rfl
@[simp] theorem State.recordPadding_dataLen (s : State) (ok : Bool) (p : Byte) : (s.recordPadding ok p).dataLen = s.dataLen := rfl
@[simp] theorem State.recordPadding_outLen (s : State) (ok : Bool) (p : Byte) : (s.recordPadding ok p).outLen = (if ok then s.dataLen - p.setWidth 32 else 0) := rfl
@[simp] theorem State.recordPadding_padLen (s : State) (ok : Bool) (p : Byte) : (s.recordPadding ok p).padLen = p := rfl
@[simp] theorem State.recordPadding_progress (s : State) (ok : Bool) (p : Byte) : (s.recordPadding ok p).progress = s.progress := rfl
@[simp] theorem State.recordPadding_key (s : State) (ok : Bool) (p : Byte) : (s.recordPadding ok p).key = s.key := rfl
@[simp] theorem State.recordPadding_mem (s : State) (ok : Bool) (p : Byte) : (s.recordPadding ok p).mem = s.mem := rfl
@[simp] theorem State.recordPadding_dataBytes (s : State) (ok : Bool) (p : Byte) : (s.recordPadding ok p).dataBytes = s.dataBytes := rfl
@[simp] theorem State.recordPadding_base (s : State) (ok : Bool) (p : Byte) : (s.recordPadding ok p).base = s.base := rfl
@[simp] theorem State.recordPadding_response (s : State) (ok : Bool) (p : Byte) : (s.recordPadding ok p).response = s.response := rfl
@[simp] theorem State.recordPadding_pending (s : State) (ok : Bool) (p : Byte) : (s.recordPadding ok p).pending = s.pending := rfl
@[simp] theorem State.recordPadding_drawIndex (s : State) (ok : Bool) (p : Byte) : (s.recordPadding ok p).drawIndex = s.drawIndex := rfl
@[simp] theorem State.recordPadding_resetIndex (s : State) (ok : Bool) (p : Byte) : (s.recordPadding ok p).resetIndex = s.resetIndex := rfl
@[simp] theorem State.recordPadding_busy (s : State) (ok : Bool) (p : Byte) : (s.recordPadding ok p).busy = s.busy := rfl
@[simp] theorem State.recordPadding_strictPad (s : State) (ok : Bool) (p : Byte) : (s.recordPadding ok p).strictPad = s.strictPad := rfl
@[simp] theorem State.recordPadding_irqEn (s : State) (ok : Bool) (p : Byte) : (s.recordPadding ok p).irqEn = s.irqEn := rfl
@[simp] theorem State.recordPadding_byteAt (s : State) (ok : Bool) (p : Byte) (y : Nat) : (s.recordPadding ok p).byteAt y = s.byteAt y := rfl
@[simp] theorem State.recordPadding_bytesAt (s : State) (ok : Bool) (p : Byte) (y n : Nat) : (s.recordPadding ok p).bytesAt y n = s.bytesAt y n := rfl

/-! The results of DERIVE (40_key_deriver.md R112) -/

@[simp] theorem State.writeDerivedKey_ctrl (s : State) : (s.writeDerivedKey).ctrl = s.ctrl := rfl
@[simp] theorem State.writeDerivedKey_done (s : State) : (s.writeDerivedKey).done = s.done := rfl
@[simp] theorem State.writeDerivedKey_cmdOvf (s : State) : (s.writeDerivedKey).cmdOvf = s.cmdOvf := rfl
@[simp] theorem State.writeDerivedKey_wrBusy (s : State) : (s.writeDerivedKey).wrBusy = s.wrBusy := rfl
@[simp] theorem State.writeDerivedKey_errcode (s : State) : (s.writeDerivedKey).errcode = s.errcode := rfl
@[simp] theorem State.writeDerivedKey_pcmd (s : State) : (s.writeDerivedKey).pcmd = s.pcmd := rfl
@[simp] theorem State.writeDerivedKey_passLen (s : State) : (s.writeDerivedKey).passLen = s.passLen := rfl
@[simp] theorem State.writeDerivedKey_saltLen (s : State) : (s.writeDerivedKey).saltLen = s.saltLen := rfl
@[simp] theorem State.writeDerivedKey_iter (s : State) : (s.writeDerivedKey).iter = s.iter := rfl
@[simp] theorem State.writeDerivedKey_dklen (s : State) : (s.writeDerivedKey).dklen = s.dklen := rfl
@[simp] theorem State.writeDerivedKey_keylen (s : State) : (s.writeDerivedKey).keylen = s.dklen := rfl
@[simp] theorem State.writeDerivedKey_dataLen (s : State) : (s.writeDerivedKey).dataLen = s.dataLen := rfl
@[simp] theorem State.writeDerivedKey_outLen (s : State) : (s.writeDerivedKey).outLen = s.outLen := rfl
@[simp] theorem State.writeDerivedKey_padLen (s : State) : (s.writeDerivedKey).padLen = s.padLen := rfl
@[simp] theorem State.writeDerivedKey_progress (s : State) : (s.writeDerivedKey).progress = BitVec.ofNat 32 (s.iter.toNat * pbkdf2BlockCount s.dklen.toNat) := rfl
@[simp] theorem State.writeDerivedKey_key (s : State) : (s.writeDerivedKey).key = keyOfBytes s.derivedKey s.dklen.toNat := rfl
@[simp] theorem State.writeDerivedKey_mem (s : State) : (s.writeDerivedKey).mem = s.mem := rfl
@[simp] theorem State.writeDerivedKey_dataBytes (s : State) : (s.writeDerivedKey).dataBytes = s.dataBytes := rfl
@[simp] theorem State.writeDerivedKey_base (s : State) : (s.writeDerivedKey).base = s.base := rfl
@[simp] theorem State.writeDerivedKey_response (s : State) : (s.writeDerivedKey).response = s.response := rfl
@[simp] theorem State.writeDerivedKey_pending (s : State) : (s.writeDerivedKey).pending = s.pending := rfl
@[simp] theorem State.writeDerivedKey_drawIndex (s : State) : (s.writeDerivedKey).drawIndex = s.drawIndex := rfl
@[simp] theorem State.writeDerivedKey_resetIndex (s : State) : (s.writeDerivedKey).resetIndex = s.resetIndex := rfl
@[simp] theorem State.writeDerivedKey_busy (s : State) : (s.writeDerivedKey).busy = s.busy := rfl
@[simp] theorem State.writeDerivedKey_strictPad (s : State) : (s.writeDerivedKey).strictPad = s.strictPad := rfl
@[simp] theorem State.writeDerivedKey_irqEn (s : State) : (s.writeDerivedKey).irqEn = s.irqEn := rfl
@[simp] theorem State.writeDerivedKey_byteAt (s : State) (y : Nat) : (s.writeDerivedKey).byteAt y = s.byteAt y := rfl
@[simp] theorem State.writeDerivedKey_bytesAt (s : State) (y n : Nat) : (s.writeDerivedKey).bytesAt y n = s.bytesAt y n := rfl

/-! The results of DECRYPT (41_block_decryptor.md R136) -/

@[simp] theorem State.writePlaintext_ctrl (s : State) : (s.writePlaintext).ctrl = s.ctrl := rfl
@[simp] theorem State.writePlaintext_done (s : State) : (s.writePlaintext).done = s.done := rfl
@[simp] theorem State.writePlaintext_cmdOvf (s : State) : (s.writePlaintext).cmdOvf = s.cmdOvf := rfl
@[simp] theorem State.writePlaintext_wrBusy (s : State) : (s.writePlaintext).wrBusy = s.wrBusy := rfl
@[simp] theorem State.writePlaintext_errcode (s : State) : (s.writePlaintext).errcode = s.errcode := rfl
@[simp] theorem State.writePlaintext_pcmd (s : State) : (s.writePlaintext).pcmd = s.pcmd := rfl
@[simp] theorem State.writePlaintext_passLen (s : State) : (s.writePlaintext).passLen = s.passLen := rfl
@[simp] theorem State.writePlaintext_saltLen (s : State) : (s.writePlaintext).saltLen = s.saltLen := rfl
@[simp] theorem State.writePlaintext_iter (s : State) : (s.writePlaintext).iter = s.iter := rfl
@[simp] theorem State.writePlaintext_dklen (s : State) : (s.writePlaintext).dklen = s.dklen := rfl
@[simp] theorem State.writePlaintext_keylen (s : State) : (s.writePlaintext).keylen = s.keylen := rfl
@[simp] theorem State.writePlaintext_dataLen (s : State) : (s.writePlaintext).dataLen = s.dataLen := rfl
@[simp] theorem State.writePlaintext_outLen (s : State) : (s.writePlaintext).outLen = s.dataLen := rfl
@[simp] theorem State.writePlaintext_padLen (s : State) : (s.writePlaintext).padLen = 0 := rfl
@[simp] theorem State.writePlaintext_progress (s : State) : (s.writePlaintext).progress = s.blockCount := rfl
@[simp] theorem State.writePlaintext_key (s : State) : (s.writePlaintext).key = s.key := rfl
@[simp] theorem State.writePlaintext_mem (s : State) : (s.writePlaintext).mem = s.mem.writeBytes dataBase s.decryptedData := rfl
@[simp] theorem State.writePlaintext_dataBytes (s : State) : (s.writePlaintext).dataBytes = s.dataBytes := rfl
@[simp] theorem State.writePlaintext_base (s : State) : (s.writePlaintext).base = s.base := rfl
@[simp] theorem State.writePlaintext_response (s : State) : (s.writePlaintext).response = s.response := rfl
@[simp] theorem State.writePlaintext_pending (s : State) : (s.writePlaintext).pending = s.pending := rfl
@[simp] theorem State.writePlaintext_drawIndex (s : State) : (s.writePlaintext).drawIndex = s.drawIndex := rfl
@[simp] theorem State.writePlaintext_resetIndex (s : State) : (s.writePlaintext).resetIndex = s.resetIndex := rfl
@[simp] theorem State.writePlaintext_busy (s : State) : (s.writePlaintext).busy = s.busy := rfl
@[simp] theorem State.writePlaintext_strictPad (s : State) : (s.writePlaintext).strictPad = s.strictPad := rfl
@[simp] theorem State.writePlaintext_irqEn (s : State) : (s.writePlaintext).irqEn = s.irqEn := rfl

/-! The results of DECRYPT_FINAL (41_block_decryptor.md R138) -/

@[simp] theorem State.writeFinal_ctrl (s : State) (ok : Bool) (p : Byte) : (s.writeFinal ok p).ctrl = s.ctrl := rfl
@[simp] theorem State.writeFinal_done (s : State) (ok : Bool) (p : Byte) : (s.writeFinal ok p).done = s.done := rfl
@[simp] theorem State.writeFinal_cmdOvf (s : State) (ok : Bool) (p : Byte) : (s.writeFinal ok p).cmdOvf = s.cmdOvf := rfl
@[simp] theorem State.writeFinal_wrBusy (s : State) (ok : Bool) (p : Byte) : (s.writeFinal ok p).wrBusy = s.wrBusy := rfl
@[simp] theorem State.writeFinal_errcode (s : State) (ok : Bool) (p : Byte) : (s.writeFinal ok p).errcode = s.errcode := rfl
@[simp] theorem State.writeFinal_pcmd (s : State) (ok : Bool) (p : Byte) : (s.writeFinal ok p).pcmd = s.pcmd := rfl
@[simp] theorem State.writeFinal_passLen (s : State) (ok : Bool) (p : Byte) : (s.writeFinal ok p).passLen = s.passLen := rfl
@[simp] theorem State.writeFinal_saltLen (s : State) (ok : Bool) (p : Byte) : (s.writeFinal ok p).saltLen = s.saltLen := rfl
@[simp] theorem State.writeFinal_iter (s : State) (ok : Bool) (p : Byte) : (s.writeFinal ok p).iter = s.iter := rfl
@[simp] theorem State.writeFinal_dklen (s : State) (ok : Bool) (p : Byte) : (s.writeFinal ok p).dklen = s.dklen := rfl
@[simp] theorem State.writeFinal_keylen (s : State) (ok : Bool) (p : Byte) : (s.writeFinal ok p).keylen = s.keylen := rfl
@[simp] theorem State.writeFinal_dataLen (s : State) (ok : Bool) (p : Byte) : (s.writeFinal ok p).dataLen = s.dataLen := rfl
@[simp] theorem State.writeFinal_outLen (s : State) (ok : Bool) (p : Byte) : (s.writeFinal ok p).outLen = (if ok then s.dataLen - p.setWidth 32 else 0) := rfl
@[simp] theorem State.writeFinal_padLen (s : State) (ok : Bool) (p : Byte) : (s.writeFinal ok p).padLen = p := rfl
@[simp] theorem State.writeFinal_progress (s : State) (ok : Bool) (p : Byte) : (s.writeFinal ok p).progress = s.blockCount := rfl
@[simp] theorem State.writeFinal_key (s : State) (ok : Bool) (p : Byte) : (s.writeFinal ok p).key = s.key := rfl
@[simp] theorem State.writeFinal_mem (s : State) (ok : Bool) (p : Byte) : (s.writeFinal ok p).mem = s.mem.writeBytes dataBase (if ok then s.decryptedData else bytesOf s.dataLen.toNat 0x00) := rfl
@[simp] theorem State.writeFinal_dataBytes (s : State) (ok : Bool) (p : Byte) : (s.writeFinal ok p).dataBytes = s.dataBytes := rfl
@[simp] theorem State.writeFinal_base (s : State) (ok : Bool) (p : Byte) : (s.writeFinal ok p).base = s.base := rfl
@[simp] theorem State.writeFinal_response (s : State) (ok : Bool) (p : Byte) : (s.writeFinal ok p).response = s.response := rfl
@[simp] theorem State.writeFinal_pending (s : State) (ok : Bool) (p : Byte) : (s.writeFinal ok p).pending = s.pending := rfl
@[simp] theorem State.writeFinal_drawIndex (s : State) (ok : Bool) (p : Byte) : (s.writeFinal ok p).drawIndex = s.drawIndex := rfl
@[simp] theorem State.writeFinal_resetIndex (s : State) (ok : Bool) (p : Byte) : (s.writeFinal ok p).resetIndex = s.resetIndex := rfl
@[simp] theorem State.writeFinal_busy (s : State) (ok : Bool) (p : Byte) : (s.writeFinal ok p).busy = s.busy := rfl
@[simp] theorem State.writeFinal_strictPad (s : State) (ok : Bool) (p : Byte) : (s.writeFinal ok p).strictPad = s.strictPad := rfl
@[simp] theorem State.writeFinal_irqEn (s : State) (ok : Bool) (p : Byte) : (s.writeFinal ok p).irqEn = s.irqEn := rfl

/-! The reset event (70_reset_and_hazards.md R181) -/

@[simp] theorem State.resetEvent_ctrl (s : State) : (s.resetEvent).ctrl = 0b01 := rfl
@[simp] theorem State.resetEvent_done (s : State) : (s.resetEvent).done = false := rfl
@[simp] theorem State.resetEvent_cmdOvf (s : State) : (s.resetEvent).cmdOvf = false := rfl
@[simp] theorem State.resetEvent_wrBusy (s : State) : (s.resetEvent).wrBusy = false := rfl
@[simp] theorem State.resetEvent_errcode (s : State) : (s.resetEvent).errcode = 0 := rfl
@[simp] theorem State.resetEvent_pcmd (s : State) : (s.resetEvent).pcmd = none := rfl
@[simp] theorem State.resetEvent_passLen (s : State) : (s.resetEvent).passLen = 0 := rfl
@[simp] theorem State.resetEvent_saltLen (s : State) : (s.resetEvent).saltLen = 0 := rfl
@[simp] theorem State.resetEvent_iter (s : State) : (s.resetEvent).iter = 0 := rfl
@[simp] theorem State.resetEvent_dklen (s : State) : (s.resetEvent).dklen = 0 := rfl
@[simp] theorem State.resetEvent_keylen (s : State) : (s.resetEvent).keylen = 0 := rfl
@[simp] theorem State.resetEvent_dataLen (s : State) : (s.resetEvent).dataLen = 0 := rfl
@[simp] theorem State.resetEvent_outLen (s : State) : (s.resetEvent).outLen = 0 := rfl
@[simp] theorem State.resetEvent_padLen (s : State) : (s.resetEvent).padLen = 0 := rfl
@[simp] theorem State.resetEvent_progress (s : State) : (s.resetEvent).progress = 0 := rfl
@[simp] theorem State.resetEvent_key (s : State) : (s.resetEvent).key = Vector.replicate 32 0 := rfl
@[simp] theorem State.resetEvent_mem (s : State) : (s.resetEvent).mem = [] := rfl
@[simp] theorem State.resetEvent_dataBytes (s : State) : (s.resetEvent).dataBytes = s.dataBytes := rfl
@[simp] theorem State.resetEvent_base (s : State) : (s.resetEvent).base = s.base := rfl
@[simp] theorem State.resetEvent_response (s : State) : (s.resetEvent).response = none := rfl
@[simp] theorem State.resetEvent_pending (s : State) : (s.resetEvent).pending = s.pending := rfl
@[simp] theorem State.resetEvent_drawIndex (s : State) : (s.resetEvent).drawIndex = s.drawIndex := rfl
@[simp] theorem State.resetEvent_resetIndex (s : State) : (s.resetEvent).resetIndex = s.resetIndex + 1 := rfl
@[simp] theorem State.resetEvent_busy (s : State) : (s.resetEvent).busy = false := rfl

end Sys2Proof.Machine
end

