-- ==== Sys2Proof/Laws/Memory.lean ====
section
/-! SUPPORT. The laws of the buffer memory: a read after a write, the frame of a write, and that every write keeps the canonical form and stays in the buffers. -/

namespace Sys2Proof.Machine

open Sys2Proof

/-! One byte -/

theorem Memory.read_write_same (m : Memory) (x : Nat) (v : Byte) : (m.write x v).read? x = some v := by
  induction m with
  | nil => simp [Memory.write, Memory.read?]
  | cons c m ih =>
    obtain ⟨a, b⟩ := c
    unfold Memory.write
    split
    · simp [Memory.read?]
    · split
      · next h => simp [Memory.read?, h]
      · next h => simp [Memory.read?, Ne.symm h, ih]

theorem Memory.read_write_other (m : Memory) {x y : Nat} (v : Byte) (h : y ≠ x) :
    (m.write x v).read? y = m.read? y := by
  induction m with
  | nil => simp [Memory.write, Memory.read?, Ne.symm h]
  | cons c m ih =>
    obtain ⟨a, b⟩ := c
    unfold Memory.write
    split
    · simp [Memory.read?, Ne.symm h]
    · split
      · next hx => subst hx; simp [Memory.read?, Ne.symm h]
      · simp [Memory.read?, ih]

/-! A byte sequence -/

theorem Memory.read_writeBytes (m : Memory) (x : Nat) (bs : List Byte) (y : Nat) :
    (m.writeBytes x bs).read? y = if x ≤ y ∧ y < x + bs.length then bs[y - x]? else m.read? y := by
  induction bs generalizing m x with
  | nil => simp [Memory.writeBytes]
  | cons v vs ih =>
    rw [Memory.writeBytes, ih]
    by_cases hxy : y = x
    · subst hxy
      simp [Memory.read_write_same]
    · rw [Memory.read_write_other _ _ hxy]
      by_cases h : x ≤ y ∧ y < x + (v :: vs).length
      · have h1 : x + 1 ≤ y ∧ y < x + 1 + vs.length := by simp at h; omega
        rw [if_pos h, if_pos h1, show y - x = (y - (x + 1)) + 1 by omega, List.getElem?_cons_succ]
      · have h1 : ¬ (x + 1 ≤ y ∧ y < x + 1 + vs.length) := by simp at h; omega
        rw [if_neg h, if_neg h1]

/-! The canonical form -/

/-- Every address of a canonical list but the first is above the first. -/
theorem Memory.wf_cons {a : Nat} {b : Byte} {m : Memory} :
    Memory.wf ((a, b) :: m) = true ↔ m.wf = true ∧ ∀ c ∈ m, a < c.1 := by
  induction m generalizing a b with
  | nil => simp [Memory.wf]
  | cons c m ih =>
    obtain ⟨a', b'⟩ := c
    simp only [Memory.wf, Bool.and_eq_true, decide_eq_true_eq]
    constructor
    · rintro ⟨h1, h2⟩
      refine ⟨h2, ?_⟩
      intro c hc
      rcases List.mem_cons.1 hc with rfl | hc
      · exact h1
      · exact Nat.lt_trans h1 ((ih.1 h2).2 c hc)
    · rintro ⟨h1, h2⟩
      exact ⟨h2 (a', b') (by simp), h1⟩

theorem Memory.mem_write {m : Memory} {x : Nat} {v : Byte} {c : Host.Cell} (h : c ∈ m.write x v) :
    c = (x, v) ∨ c ∈ m := by
  induction m with
  | nil => simpa [Memory.write] using h
  | cons d m ih =>
    obtain ⟨a, b⟩ := d
    unfold Memory.write at h
    split at h
    · simpa using h
    · split at h
      · next hx => subst hx; simp at h ⊢; tauto
      · simp only [List.mem_cons] at h ⊢
        rcases h with h | h
        · exact .inr (.inl h)
        · rcases ih h with h | h
          · exact .inl h
          · exact .inr (.inr h)

theorem Memory.wf_write {m : Memory} (h : m.wf = true) (x : Nat) (v : Byte) : (m.write x v).wf = true := by
  induction m with
  | nil => simp [Memory.write, Memory.wf]
  | cons c m ih =>
    obtain ⟨a, b⟩ := c
    have h' := Memory.wf_cons.1 h
    unfold Memory.write
    split
    · next hx =>
      refine Memory.wf_cons.2 ⟨h, ?_⟩
      intro c hc
      rcases List.mem_cons.1 hc with rfl | hc
      · exact hx
      · exact Nat.lt_trans hx (h'.2 c hc)
    · next hx =>
      split
      · exact Memory.wf_cons.2 h'
      · next hne =>
        refine Memory.wf_cons.2 ⟨ih h'.1, ?_⟩
        intro c hc
        rcases Memory.mem_write hc with rfl | hc
        · simp; omega
        · exact h'.2 c hc

theorem Memory.wf_writeBytes {m : Memory} (h : m.wf = true) (x : Nat) (bs : List Byte) :
    (m.writeBytes x bs).wf = true := by
  induction bs generalizing m x with
  | nil => exact h
  | cons v vs ih => exact ih (Memory.wf_write h x v) (x + 1)

theorem Memory.inBuffers_writeBytes {n : Nat} {m : Memory} (h : m.inBuffers n = true) (x : Nat) (bs : List Byte)
    (hx : ∀ i, i < bs.length → isBufferOffset n (x + i) = true) : (m.writeBytes x bs).inBuffers n = true := by
  induction bs generalizing m x with
  | nil => exact h
  | cons v vs ih =>
    refine ih ?_ (x + 1) ?_
    · simp only [Memory.inBuffers, List.all_eq_true] at h ⊢
      intro c hc
      rcases Memory.mem_write hc with rfl | hc
      · exact hx 0 (by simp)
      · exact h c hc
    · intro i hi
      rw [Nat.add_assoc, Nat.add_comm 1 i]
      exact hx (i + 1) (by simpa using hi)

/-! Reading the buffers through the state -/

/-- A byte after a store: the stored byte inside the stored range, else what was there. -/
theorem State.byteAt_storeBytes (s : State) (x : Nat) (bs : List Byte) (y : Nat) :
    (s.storeBytes x bs).byteAt y = if x ≤ y ∧ y < x + bs.length then bs.getD (y - x) 0 else s.byteAt y := by
  unfold State.byteAt State.storeBytes
  rw [Memory.read_writeBytes]
  split
  · next h =>
    have : y - x < bs.length := by omega
    simp [List.getD, List.getElem?_eq_getElem this]
  · rfl

theorem State.byteAt_storeBytes_in (s : State) (x : Nat) (bs : List Byte) {i : Nat} (h : i < bs.length) :
    (s.storeBytes x bs).byteAt (x + i) = bs.getD i 0 := by
  rw [State.byteAt_storeBytes, if_pos (by omega), Nat.add_sub_cancel_left]

theorem State.byteAt_storeBytes_out (s : State) {x : Nat} {bs : List Byte} {y : Nat} (h : y < x ∨ x + bs.length ≤ y) :
    (s.storeBytes x bs).byteAt y = s.byteAt y := by
  rw [State.byteAt_storeBytes, if_neg (by omega)]

@[simp] theorem State.length_bytesAt (s : State) (x n : Nat) : (s.bytesAt x n).length = n := by
  simp [State.bytesAt]

theorem State.getElem?_bytesAt (s : State) (x n : Nat) {i : Nat} (h : i < n) :
    (s.bytesAt x n)[i]? = some (s.byteAt (x + i)) := by
  simp [State.bytesAt, h]

theorem State.getD_bytesAt (s : State) (x n : Nat) {i : Nat} (h : i < n) :
    (s.bytesAt x n).getD i 0 = s.byteAt (x + i) := by
  simp [List.getD, State.getElem?_bytesAt s x n h]

/-- Two states that agree on a range of bytes give the same byte sequence there. -/
theorem State.bytesAt_congr {s t : State} {x n : Nat} (h : ∀ i, i < n → t.byteAt (x + i) = s.byteAt (x + i)) :
    t.bytesAt x n = s.bytesAt x n := by
  unfold State.bytesAt
  apply List.map_congr_left
  intro i hi
  exact h i (List.mem_range.1 hi)

/-- What was stored is what is read back. -/
theorem State.bytesAt_storeBytes (s : State) (x : Nat) (bs : List Byte) : (s.storeBytes x bs).bytesAt x bs.length = bs := by
  apply List.ext_getElem?
  intro i
  by_cases h : i < bs.length
  · rw [State.getElem?_bytesAt _ _ _ h, State.byteAt_storeBytes_in _ _ _ h]
    simp [List.getD, List.getElem?_eq_getElem h]
  · simp [State.bytesAt, h]

end Sys2Proof.Machine
end

