-- ==== Sys2Proof/Laws/Bus.lean ====
section
/-! SUPPORT. What a host transaction and a register write can do, said once. -/

namespace Sys2Proof.Machine

open Sys2Proof

/-! Words of the buffers and of KEY -/

theorem State.lane_bufferWord (s : State) (x : Nat) (k : Fin 4) : lane (s.bufferWord x) k.val = s.byteAt (x + k.val) := by
  unfold State.bufferWord
  rw [lane_le32]
  fin_cases k <;> rfl

theorem State.lane_keyWord (s : State) (j : Fin 8) (k : Fin 4) :
    lane (s.keyWord j) k.val = s.key[4 * j.val + k.val] := by
  unfold State.keyWord
  rw [lane_le32]
  fin_cases k <;> rfl

/-- A buffer word depends on the bytes of the buffers only. -/
theorem State.bufferWord_congr {s t : State} (h : ∀ x, t.byteAt x = s.byteAt x) (x : Nat) :
    t.bufferWord x = s.bufferWord x := by
  simp only [State.bufferWord, h]

theorem State.byteAt_storeWord_in (s : State) (x : Nat) (v : Word) (k : Fin 4) :
    (s.storeBytes x (le32bytes v)).byteAt (x + k.val) = lane v k.val := by
  rw [State.byteAt_storeBytes_in _ _ _ (by simp), getD_le32bytes]

theorem State.byteAt_storeWord_out (s : State) {x : Nat} (v : Word) {y : Nat} (h : y < x ∨ x + 4 ≤ y) :
    (s.storeBytes x (le32bytes v)).byteAt y = s.byteAt y :=
  State.byteAt_storeBytes_out s (by simpa using h)

/-! The register a transaction reaches -/

/-- A transaction reaches a register only with size 4, at an aligned offset, where the map has it. -/
theorem busTarget_some {n off : Nat} {size : BusSize} {r : Reg} (h : busTarget n off size = some r) :
    size = .word ∧ off % 4 = 0 ∧ regAt n off = some r := by
  unfold busTarget at h
  split at h
  · next hs =>
    split at h
    · next h4 => exact ⟨hs, h4, h⟩
    · cases h
  · cases h

/-- The DATA words the map has lie in the data buffer. -/
theorem regAt_data {n off j : Nat} (h : regAt n off = some (.data j)) : 4 * j < n := by
  unfold regAt at h
  split at h
  · next hlt =>
    have h14 : off / 4 < 16 := by simp at hlt; omega
    generalize off / 4 = q at *
    interval_cases q <;> simp [fixedRegs] at h
  · split_ifs at h <;> simp at h
    next hd => simp at hd; omega

/-! What a transaction can do -/

/-- A transaction that answers a next state changes nothing but the port's response and, for a drawn read, the draw counter,
unless it is a write that reaches a register. -/
theorem State.busTransaction_next {s t : State} {e : Transaction} (h : s.busTransaction e = .next t) :
    (∃ resp d, t = s.respond resp d) ∨ (∃ d, t = s.nextDraw.respond .okay d)
      ∨ ∃ off r v, e = .write off .word v ∧ busTarget s.dataBytes off .word = some r
          ∧ t = (s.writeReg r v).respond .okay none := by
  unfold State.busTransaction at h
  split at h
  swap
  · cases h
  cases e with
  | read off size =>
    cases h
    unfold State.memRead
    split
    · exact .inl ⟨_, _, rfl⟩
    · split
      · exact .inr (.inl ⟨_, rfl⟩)
      · exact .inl ⟨_, _, rfl⟩
  | write off size v =>
    cases h
    unfold State.memWrite
    split
    · exact .inl ⟨_, _, rfl⟩
    · next r hr =>
      obtain rfl := (busTarget_some hr).1
      exact .inr (.inr ⟨off, r, v, rfl, hr, rfl⟩)

/-- A transaction a host can present answers a next state. -/
theorem State.busTransaction_ok (s : State) {e : Transaction} (h : e.off < Config.windowBytes s.dataBytes) :
    ∃ t, s.busTransaction e = .next t := by
  unfold State.busTransaction
  rw [if_pos h]
  cases e <;> exact ⟨_, rfl⟩

/-- A write while Busy changes nothing but the three write-1-to-clear flags. -/
theorem State.writeReg_busy {s : State} (hb : s.busy = true) (r : Reg) (v : Word) :
    ∃ d o w, s.writeReg r v = { s with done := d, cmdOvf := o, wrBusy := w } ∧ (s.done = false → d = false) := by
  unfold State.writeReg
  rw [if_pos hb]
  cases r
  case status => exact ⟨_, _, _, rfl, by intro h; simp [h]⟩
  all_goals exact ⟨_, _, _, rfl, id⟩

/-- No write changes the model's own fields, OUT_LEN or PAD_LEN. -/
theorem State.writeReg_own (s : State) (r : Reg) (v : Word) :
    (s.writeReg r v).dataBytes = s.dataBytes ∧ (s.writeReg r v).pending = s.pending
      ∧ (s.writeReg r v).drawIndex = s.drawIndex ∧ (s.writeReg r v).resetIndex = s.resetIndex
      ∧ (s.writeReg r v).response = s.response ∧ (s.writeReg r v).outLen = s.outLen
      ∧ (s.writeReg r v).padLen = s.padLen := by
  unfold State.writeReg
  split <;> cases r <;> simp [State.writeIdle, State.writeBusy]

end Sys2Proof.Machine
end

