-- ==== Sys2Proof/Laws/Commands.lean ====
section
/-! SUPPORT. What each command can do, said once: the cases of its meaning, each with the next state it answers. -/

namespace Sys2Proof.Machine

open Sys2Proof

/-! The checks, as statements about the registers -/

theorem State.dataLengthOk_iff (s : State) :
    s.dataLengthOk = true ↔ 0 < s.dataLen.toNat ∧ s.dataLen.toNat % 16 = 0 ∧ s.dataLen.toNat ≤ s.dataBytes := by
  simp [State.dataLengthOk, and_assoc]

theorem State.keyLengthOk_iff (s : State) : s.keyLengthOk = true ↔ s.keylen.toNat = 32 := by
  simp [State.keyLengthOk]

theorem State.deriveOperandsOk_iff (s : State) :
    s.deriveOperandsOk = true ↔
      (1 ≤ s.passLen.toNat ∧ s.passLen.toNat ≤ 64) ∧ (1 ≤ s.saltLen.toNat ∧ s.saltLen.toNat ≤ 64)
        ∧ 1 ≤ s.iter.toNat ∧ (1 ≤ s.dklen.toNat ∧ s.dklen.toNat ≤ 32) := by
  simp [State.deriveOperandsOk, and_assoc]

/-! The cases of the meanings -/

theorem execDerive_ok {s : State} (h : s.deriveOperandsOk = true) :
    execDerive s = .next (s.writeDerivedKey.complete .ok) := by
  simp [execDerive, h]

theorem execDerive_bad {s : State} (h : s.deriveOperandsOk = false) :
    execDerive s = .next (s.complete .invalidParameters) := by
  simp [execDerive, h]

theorem execDecrypt_ok {s : State} (hk : s.keyLengthOk = true) (hd : s.dataLengthOk = true) :
    execDecrypt s = .next (s.writePlaintext.complete .ok) := by
  simp [execDecrypt, hk, hd]

theorem execDecryptFinal_ok {s : State} (hk : s.keyLengthOk = true) (hd : s.dataLengthOk = true) :
    execDecryptFinal s =
      .next ((s.writeFinal (padCheck s.decryptedData s.strictPad).1 (padCheck s.decryptedData s.strictPad).2).complete
        (padCode (padCheck s.decryptedData s.strictPad).1)) := by
  simp [execDecryptFinal, hk, hd]

theorem execUnpad_ok {s : State} (hd : s.dataLengthOk = true) :
    execUnpad s =
      .next ((s.recordPadding (padCheck s.dataInput s.strictPad).1 (padCheck s.dataInput s.strictPad).2).complete
        (padCode (padCheck s.dataInput s.strictPad).1)) := by
  simp [execUnpad, hd]

theorem execDecrypt_badKey {s : State} (hk : s.keyLengthOk = false) :
    execDecrypt s = .next (s.clearLengths.complete .invalidKeyLength) := by
  simp [execDecrypt, hk]

theorem execDecryptFinal_badKey {s : State} (hk : s.keyLengthOk = false) :
    execDecryptFinal s = .next (s.clearLengths.complete .invalidKeyLength) := by
  simp [execDecryptFinal, hk]

theorem execDecrypt_badLength {s : State} (hk : s.keyLengthOk = true) (hd : s.dataLengthOk = false) :
    execDecrypt s = .next (s.clearLengths.complete .invalidCiphertextLength) := by
  simp [execDecrypt, hk, hd]

theorem execDecryptFinal_badLength {s : State} (hk : s.keyLengthOk = true) (hd : s.dataLengthOk = false) :
    execDecryptFinal s = .next (s.clearLengths.complete .invalidCiphertextLength) := by
  simp [execDecryptFinal, hk, hd]

theorem execUnpad_badLength {s : State} (hd : s.dataLengthOk = false) :
    execUnpad s = .next (s.clearLengths.complete .invalidCiphertextLength) := by
  simp [execUnpad, hd]

/-- Every command is one of these: the state before its completion, and the code. -/
theorem exec_cases (i : Instr) (s : State) :
    ∃ u c, exec i s = .next (State.complete u c) ∧
      (u = s ∨ u = s.clearLengths ∨ u = s.writeDerivedKey
        ∨ (s.dataLengthOk = true ∧ (u = s.writePlaintext ∨ ∃ r, u = s.writeFinal r.1 r.2 ∧ r = padCheck s.decryptedData s.strictPad
          ∨ u = s.recordPadding r.1 r.2 ∧ r = padCheck s.dataInput s.strictPad))) := by
  cases i with
  | derive =>
    cases h : s.deriveOperandsOk
    · exact ⟨s, _, execDerive_bad h, .inl rfl⟩
    · exact ⟨_, _, execDerive_ok h, .inr (.inr (.inl rfl))⟩
  | decrypt =>
    cases hk : s.keyLengthOk
    · exact ⟨_, _, execDecrypt_badKey hk, .inr (.inl rfl)⟩
    · cases hd : s.dataLengthOk
      · exact ⟨_, _, execDecrypt_badLength hk hd, .inr (.inl rfl)⟩
      · exact ⟨_, _, execDecrypt_ok hk hd, .inr (.inr (.inr ⟨rfl, .inl rfl⟩))⟩
  | decryptFinal =>
    cases hk : s.keyLengthOk
    · exact ⟨_, _, execDecryptFinal_badKey hk, .inr (.inl rfl)⟩
    · cases hd : s.dataLengthOk
      · exact ⟨_, _, execDecryptFinal_badLength hk hd, .inr (.inl rfl)⟩
      · exact ⟨_, _, execDecryptFinal_ok hk hd, .inr (.inr (.inr ⟨rfl, .inr ⟨_, .inl ⟨rfl, rfl⟩⟩⟩))⟩
  | unpad =>
    cases hd : s.dataLengthOk
    · exact ⟨_, _, execUnpad_badLength hd, .inr (.inl rfl)⟩
    · exact ⟨_, _, execUnpad_ok hd, .inr (.inr (.inr ⟨rfl, .inr ⟨_, .inr ⟨rfl, rfl⟩⟩⟩))⟩
  | illegal v => exact ⟨s, _, rfl, .inl rfl⟩

/-! PadCheck -/

/-- What a passed padding check says of p. -/
theorem padCheck_ok_range {b : List Byte} {strict : Bool} (h : (padCheck b strict).1 = true) :
    1 ≤ (padCheck b strict).2.toNat ∧ (padCheck b strict).2.toNat ≤ 16 := by
  unfold padCheck at h ⊢
  by_cases hp : (lastByte b).toNat = 0 ∨ Config.padMax < (lastByte b).toNat
  · simp only [hp, if_true] at h
    cases h
  · have hr : 1 ≤ (lastByte b).toNat ∧ (lastByte b).toNat ≤ 16 := by simp at hp; omega
    simp only [hp, if_false]
    split <;> exact hr

theorem padCheck_snd (b : List Byte) (strict : Bool) : (padCheck b strict).2 = lastByte b := by
  unfold padCheck
  simp only
  split_ifs <;> rfl

/-- PadCheck looks at the last block only. -/
theorem padCheck_append (a last : List Byte) (strict : Bool) (h : last.length = 16) : padCheck (a ++ last) strict = padCheck last strict := by
  have hl : lastByte (a ++ last) = lastByte last := by
    unfold lastByte
    cases last with
    | nil => simp at h
    | cons x l => simp [List.getLastD_eq_getLast?, List.getLast?_cons]
  unfold padCheck
  rw [hl]
  by_cases hp : (lastByte last).toNat = 0 ∨ 16 < (lastByte last).toNat
  · simp only [hp, if_true]
  · simp only [hp, if_false]
    have : (a ++ last).drop ((a ++ last).length - (lastByte last).toNat) = last.drop (last.length - (lastByte last).toNat) := by
      rw [List.length_append, List.drop_append]
      rw [List.drop_eq_nil_of_le (by omega), List.nil_append]
      congr 1; omega
    rw [this]

/-- The strip of a passed check loses nothing: OUT_LEN and p make DATA_LEN. -/
theorem State.strip_length {s : State} (hd : s.dataLengthOk = true) {b : List Byte} {st : Bool} (h : (padCheck b st).1 = true) :
   (s.dataLen - (padCheck b st).2.setWidth 32).toNat + (padCheck b st).2.toNat = s.dataLen.toNat := by
    have := padCheck_ok_range h
    have hd := s.dataLengthOk_iff.1 hd
    have h2 : ((padCheck b st).2.setWidth 32).toNat = (padCheck b st).2.toNat := by
      simp; have := (padCheck b st).2.isLt; omega
    rw [BitVec.toNat_sub_of_le (by rw [BitVec.le_def]; omega)]
    omega

/-! ECB -/

theorem length_ecbBlocks (w : List KeyWord) (n : Nat) (bs : List Byte) : (ecbBlocks w n bs).length = 16 * n := by
  induction n generalizing bs with
  | zero => rfl
  | succ n ih => simp [ecbBlocks, ih]; omega

theorem length_ecbDec (key : Vector Byte 32) {c : List Byte} (h : c.length % 16 = 0) : (ecbDec key c).length = c.length := by
  simp [ecbDec, length_ecbBlocks]
  omega

@[simp] theorem State.length_dataInput (s : State) : s.dataInput.length = s.dataLen.toNat := by
  simp [State.dataInput]

theorem State.length_decryptedData {s : State} (h : s.dataLengthOk = true) : s.decryptedData.length = s.dataLen.toNat := by
  rw [State.decryptedData, length_ecbDec _ (by simpa using (s.dataLengthOk_iff.1 h).2.1), State.length_dataInput]

/-! The stores of the decrypting commands -/

/-- DECRYPT and DECRYPT_FINAL write DATA[0..DATA_LEN) and no other byte. -/
theorem State.byteAt_writePlaintext_out {s : State} (h : s.dataLengthOk = true) {x : Nat}
    (hx : x < dataBase ∨ dataBase + s.dataLen.toNat ≤ x) : s.writePlaintext.byteAt x = s.byteAt x :=
  State.byteAt_storeBytes_out s (by rwa [State.length_decryptedData h])

theorem State.byteAt_writePlaintext_in {s : State} (h : s.dataLengthOk = true) {i : Nat} (hi : i < s.dataLen.toNat) :
    s.writePlaintext.byteAt (dataBase + i) = s.decryptedData.getD i 0 :=
  State.byteAt_storeBytes_in s dataBase s.decryptedData (by rwa [State.length_decryptedData h])

theorem State.byteAt_writeFinal_out {s : State} (h : s.dataLengthOk = true) (ok : Bool) (p : Byte) {x : Nat}
    (hx : x < dataBase ∨ dataBase + s.dataLen.toNat ≤ x) : (s.writeFinal ok p).byteAt x = s.byteAt x := by
  refine State.byteAt_storeBytes_out s ?_
  cases ok
  · simpa using hx
  · simpa [State.length_decryptedData h] using hx

theorem State.byteAt_writeFinal_in {s : State} (h : s.dataLengthOk = true) (ok : Bool) (p : Byte) {i : Nat}
    (hi : i < s.dataLen.toNat) :
    (s.writeFinal ok p).byteAt (dataBase + i) = if ok then s.decryptedData.getD i 0 else 0x00 := by
  cases ok
  · refine (State.byteAt_storeBytes_in s dataBase (bytesOf s.dataLen.toNat 0x00) (by simpa using hi)).trans ?_
    simp [bytesOf, List.getD, hi]
  · exact State.byteAt_storeBytes_in s dataBase s.decryptedData (by rwa [State.length_decryptedData h])

end Sys2Proof.Machine
end

