-- ==== Sys2Proof/Laws/Pbkdf2.lean ====
section
/-! SUPPORT. The lengths of what the hash functions give. -/

namespace Sys2Proof.Machine

open Sys2Proof

theorem length_sha1 (m) : (sha1 m).length = 20 := by simp [sha1]

theorem length_hmacSha1 (k m) : (hmacSha1 k m).length = 20 := by simp [hmacSha1, length_sha1]

theorem length_pbkdf2Iterate (p n u t) (h : t.length = 20) : (pbkdf2Iterate p n u t).length = 20 := by
  induction n generalizing u t with
  | zero => exact h
  | succ n ih => rw [pbkdf2Iterate]; exact ih _ _ (by simp [h, length_hmacSha1])

theorem length_pbkdf2Block (p s c i) : (pbkdf2Block p s c i).length = 20 := length_pbkdf2Iterate _ _ _ _ (length_hmacSha1 _ _)

theorem length_pbkdf2Blocks (p s c n) : ((List.range n).flatMap fun i => pbkdf2Block p s c (i + 1)).length = 20 * n := by
  simp [List.length_flatMap, length_pbkdf2Block]; omega

end Sys2Proof.Machine
end

