-- ==== Sys2Proof/Laws/PerInstr.lean ====
section
/-! SUPPORT. The family ByteForm: every instruction has four bytes on the bus, and they decode to what its word decodes to. -/

namespace Sys2Proof.Laws.ByteForm

open Sys2Proof Sys2Proof.Machine

/-- An instruction is one word of four bytes, and its bytes decode to what its word decodes to (30_encoding.md R81;
20_memory.md R63). -/
def Statement (i : Instr) : Prop :=
  (encodeBytes i).length = 4 ∧ decodeBytes (encodeBytes i) = .ok (decode (encode i))

theorem derive : Statement .derive := ⟨rfl, rfl⟩

theorem decrypt : Statement .decrypt := ⟨rfl, rfl⟩

theorem decryptFinal : Statement .decryptFinal := ⟨rfl, rfl⟩

theorem unpad : Statement .unpad := ⟨rfl, rfl⟩

theorem illegal (v : Word) : Statement (.illegal v) :=
  ⟨rfl, congrArg (fun u => Except.ok (decode u)) (le32_lanes v)⟩

end Sys2Proof.Laws.ByteForm
end

