-- ==== Sys2Proof/Laws/Step.lean ====
section
/-! SUPPORT. What one step and a run can do, said once. -/

namespace Sys2Proof.Machine

open Sys2Proof

/-! The frame of the commands' writes -/

theorem CommandFrame.complete {s u : State} (c : ResultCode) (h : CommandFrame s u) : CommandFrame s (u.complete c) := by
  exact ⟨h.ctrl, h.cmdOvf, h.wrBusy, h.passLen, h.saltLen, h.iter, h.dklen, h.dataLen, h.dataBytes, h.base, h.response,
    h.pending, h.drawIndex, h.resetIndex, h.outside⟩

theorem CommandFrame.refl (s : State) : CommandFrame s s := ⟨rfl, rfl, rfl, rfl, rfl, rfl, rfl, rfl, rfl, rfl, rfl, rfl, rfl, rfl, fun _ _ => rfl⟩

theorem CommandFrame.writePlaintext {s : State} (hd : s.dataLengthOk = true) : CommandFrame s s.writePlaintext :=
  ⟨rfl, rfl, rfl, rfl, rfl, rfl, rfl, rfl, rfl, rfl, rfl, rfl, rfl, rfl, fun _ hx => State.byteAt_writePlaintext_out hd hx⟩

theorem CommandFrame.writeFinal {s : State} (hd : s.dataLengthOk = true) (a b) : CommandFrame s (s.writeFinal a b) :=
  ⟨rfl, rfl, rfl, rfl, rfl, rfl, rfl, rfl, rfl, rfl, rfl, rfl, rfl, rfl, fun _ hx => State.byteAt_writeFinal_out hd _ _ hx⟩

theorem CommandFrame.recordPadding {s : State} (a b) : CommandFrame s (s.recordPadding a b) :=
  ⟨rfl, rfl, rfl, rfl, rfl, rfl, rfl, rfl, rfl, rfl, rfl, rfl, rfl, rfl, fun _ _ => rfl⟩

theorem CommandFrame.writeDerivedKey {s : State} : CommandFrame s s.writeDerivedKey :=
  ⟨rfl, rfl, rfl, rfl, rfl, rfl, rfl, rfl, rfl, rfl, rfl, rfl, rfl, rfl, fun _ _ => rfl⟩

theorem CommandFrame.clearLengths {s : State} : CommandFrame s s.clearLengths :=
  ⟨rfl, rfl, rfl, rfl, rfl, rfl, rfl, rfl, rfl, rfl, rfl, rfl, rfl, rfl, fun _ _ => rfl⟩

/-! One step, by the head of the queue -/

theorem step_of_nil {s : State} (h : s.pending = []) : step s = s.engineTurn := by
  simp [step, State.nextInput, h, State.takeInput]

theorem step_of_cons {s : State} {e : InputEvent} {rest : List InputEvent} (h : s.pending = e :: rest) :
    step s = State.takeInput { s with pending := rest } e := by
  simp [step, State.nextInput, h]

/-- A turn of an Idle engine changes nothing. -/
theorem State.engineTurn_idle {s : State} (h : s.pcmd = none) : s.engineTurn = .next s := by
  simp [State.engineTurn, State.pendingCommand, h]

/-- A turn of a Busy engine runs its command. -/
theorem State.engineTurn_busy {s : State} {v : Word} (h : s.pcmd = some v) : s.engineTurn = exec (decode v) s := by
  simp [State.engineTurn, State.pendingCommand, h]

/-! Accesses by address -/

/-- The access that reaches an offset of the window is the transaction at that offset. -/
theorem State.hostAccess_atBase (s : State) {x : Transaction} (h : x.off < Config.windowBytes s.dataBytes) :
    s.hostAccess (x.atBase s.base) = s.busTransaction x := by
  cases x <;> simp_all [State.hostAccess, State.inWindow, Transaction.atBase, Access.addr, Access.toPort, Transaction.off]

/-- An access outside the window changes nothing. -/
theorem State.hostAccess_outside {s : State} {a : Access} (h : s.inWindow a.addr = false) : s.hostAccess a = .next s := by
  simp [State.hostAccess, h]

/-- An access in the window is one that reaches an offset of it. -/
theorem State.inWindow_atBase {s : State} {a : Access} (h : s.inWindow a.addr = true) :
    (a.toPort s.base).off < Config.windowBytes s.dataBytes ∧ a = (a.toPort s.base).atBase s.base := by
  simp only [State.inWindow, Bool.and_eq_true, decide_eq_true_eq] at h
  have hoff : (a.toPort s.base).off = a.addr - s.base := by cases a <;> rfl
  have hback : s.base + (a.addr - s.base) = a.addr := by omega
  refine ⟨by omega, ?_⟩
  cases a <;> simp_all [Transaction.atBase, Access.addr, Access.toPort]

/-- A host's input is a transaction at the port, or changes nothing. -/
theorem State.takeInput_host {s : State} {e : InputEvent} (h : e.isHost = true) :
    (∃ x, s.portTransaction e = some x ∧ s.takeInput e = s.busTransaction x) ∨ s.takeInput e = .next s := by
  cases e with
  | host x => exact .inl ⟨x, rfl, rfl⟩
  | access a =>
    cases hw : s.inWindow a.addr
    · exact .inr (State.hostAccess_outside hw)
    · exact .inl ⟨a.toPort s.base, by simp only [State.portTransaction, hw, if_true], by simp [State.takeInput, State.hostAccess, hw]⟩
  | engine => cases h
  | reset => cases h

/-- A step that answers a next state is one of five moves: an idle turn, a command, a reset, a transaction at the port, an
access elsewhere. -/
theorem step_next {s t : State} (h : step s = .next t) :
    ∃ u e, (u = s ∧ e = .engine ∧ s.pending = [] ∨ (∃ rest, s.pending = e :: rest ∧ u = { s with pending := rest }))
      ∧ ((e = .engine ∧ u.pcmd = none ∧ t = u)
        ∨ (∃ v, e = .engine ∧ u.pcmd = some v ∧ exec (decode v) u = .next t)
        ∨ (e = .reset ∧ t = u.resetEvent)
        ∨ (∃ x, u.portTransaction e = some x ∧ u.busTransaction x = .next t)
        ∨ ∃ a, e = .access a ∧ u.inWindow a.addr = false ∧ t = u) := by
  have move : ∀ u e, State.takeInput u e = .next t →
      ((e = .engine ∧ u.pcmd = none ∧ t = u) ∨ (∃ v, e = .engine ∧ u.pcmd = some v ∧ exec (decode v) u = .next t)
        ∨ (e = .reset ∧ t = u.resetEvent) ∨ (∃ x, u.portTransaction e = some x ∧ u.busTransaction x = .next t)
        ∨ ∃ a, e = .access a ∧ u.inWindow a.addr = false ∧ t = u) := by
    intro u e he
    cases e with
    | engine =>
      cases hp : u.pcmd with
      | none =>
        rw [State.takeInput, State.engineTurn_idle hp] at he
        cases he
        exact .inl ⟨rfl, rfl, rfl⟩
      | some v =>
        rw [State.takeInput, State.engineTurn_busy hp] at he
        exact .inr (.inl ⟨v, rfl, rfl, he⟩)
    | reset =>
      cases he
      exact .inr (.inr (.inl ⟨rfl, rfl⟩))
    | host x => exact .inr (.inr (.inr (.inl ⟨x, rfl, he⟩)))
    | access a =>
      cases hw : u.inWindow a.addr with
      | false =>
        rw [State.takeInput, State.hostAccess_outside hw] at he
        cases he
        exact .inr (.inr (.inr (.inr ⟨a, rfl, hw, rfl⟩)))
      | true =>
        rw [State.takeInput, State.hostAccess, if_pos hw] at he
        exact .inr (.inr (.inr (.inl ⟨a.toPort u.base, by simp [State.portTransaction, hw], he⟩)))
  cases hp : s.pending with
  | nil =>
    rw [step_of_nil hp] at h
    exact ⟨s, .engine, .inl ⟨rfl, rfl, rfl⟩, move s .engine h⟩
  | cons e rest =>
    rw [step_of_cons hp] at h
    exact ⟨_, e, .inr ⟨rest, rfl, rfl⟩, move _ e h⟩

/-! A run -/

theorem run_zero (s : State) : run 0 s = .next s := rfl

theorem run_next {s t : State} (k : Nat) (h : step s = .next t) : run (k + 1) s = run k t := by
  have h' : Sys2Proof.core.step s = .next t := h
  simp only [run, Host.Core.run, h']
  rfl

/-- A run cut in two. -/
theorem run_add {s t : State} {j : Nat} (k : Nat) (h : run j s = .next t) : run (j + k) s = run k t := by
  induction j generalizing s with
  | zero =>
    rw [run_zero] at h
    cases h
    rw [Nat.zero_add]
  | succ j ih =>
    cases hs : step s with
    | next u =>
      rw [run_next j hs] at h
      rw [Nat.add_right_comm, run_next _ hs]
      exact ih h
    | fault r =>
      have h' : Sys2Proof.core.step s = .fault r := hs
      simp only [run, Host.Core.run, h'] at h
      cases h
    | refused r =>
      have h' : Sys2Proof.core.step s = .refused r := hs
      simp only [run, Host.Core.run, h'] at h
      cases h

end Sys2Proof.Machine
end

