-- ==== Sys2Proof/Tests/Slice0.lean ====
section
/-! SUPPORT. Small tests of the model against the vectors of spec/95_test_vectors.md, and a witness for the hypotheses of each statement that has some. -/

open Sys2Proof Sys2Proof.Machine

namespace Sys2Proof.Tests

/-! Helpers: the states the tests start from -/

/-- Reset with bytes in DATA, their number in DATA_LEN, and a KEYLEN. -/
def dataState (bs : List Byte) (keylen : BitVec 8) : State :=
  { State.reset.storeBytes 0x1000 bs with dataLen := BitVec.ofNat 32 bs.length, keylen := keylen }

/-- Reset with a passphrase and a salt loaded, their lengths, ITER and DKLEN. -/
def deriveState (pass salt : List Byte) (iter : Word) (dklen : BitVec 8) : State :=
  { (State.reset.storeBytes 0x080 pass).storeBytes 0x0C0 salt with
    passLen := BitVec.ofNat 8 pass.length, saltLen := BitVec.ofNat 8 salt.length, iter := iter, dklen := dklen }

/-- Reset with a command accepted. -/
def busyState (v : Word) : State := State.reset.accept v

/-- A state with inputs to come. -/
def withInputs (s : State) (es : List InputEvent) : State := { s with pending := es }

/-- Reset with the window at an address of the host's address space. -/
def coreAt (base : Nat) : State := { State.reset with base := base }

/-- P_T2 of 95_test_vectors.md. -/
def passT2 : List Byte := [0x54, 0x32, 0x42, 0x4f, 0x59, 0x53, 0x53, 0x4e, 0x43, 0x48, 0x41, 0x4e, 0x47, 0x45, 0x52]

/-- S_T2 of 95_test_vectors.md. -/
def saltT2 : List Byte := [0x45, 0x43, 0x45, 0x4a, 0x57, 0x51, 0x58, 0x41, 0x49, 0x46, 0x51, 0x47, 0x43, 0x49]

/-- K_T2 of 95_test_vectors.md. -/
def keyT2 : Vector Byte 32 :=
  #v[0x19, 0x28, 0x42, 0xcd, 0x87, 0xf5, 0xa5, 0xe4, 0xb3, 0x34, 0x0b, 0xc8, 0x03, 0x02, 0x58, 0x6f, 0xee, 0x14, 0x0a,
    0xd3, 0x6e, 0xb8, 0x5f, 0xe4, 0x65, 0xa2, 0x6d, 0x88, 0x7d, 0xd2, 0xbe, 0xbe]

/-- C_EMPTY of 95_test_vectors.md. -/
def cipherEmpty : List Byte :=
  [0xc7, 0x72, 0x4a, 0x1f, 0x5c, 0x0f, 0x44, 0x43, 0x56, 0xba, 0x92, 0x7f, 0x2a, 0xc0, 0xcb, 0xd5]

/-- The ciphertext of L1-8a: its last plaintext byte under K_T2 is 0x00. -/
def cipherBadPad : List Byte :=
  [0x31, 0x60, 0x22, 0x67, 0x54, 0xc9, 0x70, 0x6b, 0x4c, 0xe4, 0x75, 0x24, 0xba, 0x90, 0xea, 0x5a]

/-- "ABCDEFGHIJKLM" and the three bytes after it of PAD-4 and PAD-5. -/
def padBytes (x y : Byte) : List Byte :=
  [0x41, 0x42, 0x43, 0x44, 0x45, 0x46, 0x47, 0x48, 0x49, 0x4a, 0x4b, 0x4c, 0x4d, x, y, 0x03]

/-- What a test looks at after an outcome; a stop gives none. -/
def after {α : Type} (o : Host.Outcome State Fault Refusal) (f : State → α) : Option α :=
  match o with
  | .next t => some (f t)
  | .fault _ => none
  | .refused _ => none

/-- The next state itself. -/
theorem next_of_after {o : Host.Outcome State Fault Refusal} {t : State} (h : after o id = some t) : o = .next t := by
  cases o <;> simp_all [after]

/-! Well-formedness: the one check refuses its ill-formed terms -/

/-- `illegal` of a word that spells a command is ill-formed (30_encoding.md R83). -/
theorem test_wellFormed_refuses_command_words :
    Instr.wellFormed (.illegal 0x00000001) = false ∧ Instr.wellFormed (.illegal 0x00000002) = false
      ∧ Instr.wellFormed (.illegal 0x00000003) = false ∧ Instr.wellFormed (.illegal 0x00000004) = false := by decide

theorem test_wellFormed_accepts :
    Instr.wellFormed .derive = true ∧ Instr.wellFormed (.illegal 0x00000000) = true
      ∧ Instr.wellFormed (.illegal 0x00000005) = true ∧ Instr.wellFormed (.illegal 0x00000101) = true
      ∧ Instr.wellFormed (.illegal 0xFFFFFFFF) = true := by decide

/-! Decoding: each constructor's word, written bit by bit from spec/opcode_table.json -/

theorem test_decode_derive : decode 0b00000000000000000000000000000001#32 = .derive := by decide

theorem test_decode_decrypt : decode 0b00000000000000000000000000000010#32 = .decrypt := by decide

theorem test_decode_decryptFinal : decode 0b00000000000000000000000000000011#32 = .decryptFinal := by decide

theorem test_decode_unpad : decode 0b00000000000000000000000000000100#32 = .unpad := by decide

/-- IL-1 to IL-5. -/
theorem test_decode_illegal :
    decode 0x00000000 = .illegal 0x00000000 ∧ decode 0x00000005 = .illegal 0x00000005
      ∧ decode 0x000000FF = .illegal 0x000000FF ∧ decode 0x00000101 = .illegal 0x00000101
      ∧ decode 0x80000003 = .illegal 0x80000003 := by decide

theorem test_decodeTableWord :
    decodeTableWord 32 0x00000004 = some .unpad ∧ decodeTableWord 8 0x03 = some .decryptFinal
      ∧ decodeTableWord 40 0x01 = none := by decide

theorem test_decodeBytes_rejects :
    decodeBytes [] = .error .notOneWord ∧ decodeBytes [0x01, 0x00, 0x00] = .error .notOneWord
      ∧ decodeBytes [0x01, 0x00, 0x00, 0x00, 0x00] = .error .notOneWord := by decide

/-! DERIVE -/

/-- PB-8: P_T2, S_T2, one iteration, DKLEN 20. -/
theorem test_derive_one_iteration :
    after (exec .derive (deriveState passT2 saltT2 1 20)) (fun t => (t.key, t.keylen, t.progress, t.readReg .status))
      = some (#v[0x96, 0x7f, 0x64, 0x44, 0x29, 0x55, 0x8f, 0x6e, 0x5b, 0x40, 0xef, 0x86, 0x3a, 0x9f, 0xe2, 0x04, 0x41,
          0x3d, 0xfe, 0x5c, 0, 0, 0, 0, 0, 0, 0, 0, 0, 0, 0, 0], 20, 1, 0x00000002) := by decide +kernel

/-- KD-5 and KD-9: an empty passphrase, and DKLEN 33, change nothing but STATUS. -/
theorem test_derive_invalid :
    after (exec .derive (deriveState [] saltT2 10000 32)) id
        = some { deriveState [] saltT2 10000 32 with errcode := 1, done := true }
      ∧ after (exec .derive (deriveState passT2 saltT2 10000 33)) (fun t => t.readReg .status) = some 0x00000102 := by
  decide +kernel

/-! DECRYPT -/

/-- DC-1: the FIPS 197 C.3 block. -/
theorem test_decrypt_fips :
    after (exec .decrypt
        { dataState [0x8e, 0xa2, 0xb7, 0xca, 0x51, 0x67, 0x45, 0xbf, 0xea, 0xfc, 0x49, 0x90, 0x4b, 0x49, 0x60, 0x89] 32 with
          key := Vector.ofFn fun i => BitVec.ofNat 8 i.val })
        (fun t => (t.bytesAt 0x1000 16, t.outLen, t.padLen, t.progress, t.readReg .status))
      = some ([0x00, 0x11, 0x22, 0x33, 0x44, 0x55, 0x66, 0x77, 0x88, 0x99, 0xaa, 0xbb, 0xcc, 0xdd, 0xee, 0xff], 16, 0, 1,
          0x00000002) := by decide +kernel

/-- DC-10: both checks fail, the key is reported. -/
theorem test_decrypt_key_first :
    after (exec .decrypt (dataState (bytesOf 15 0x00) 16)) (fun t => (t.readReg .status, t.outLen, t.padLen))
      = some (0x00000202, 0, 0) := by decide +kernel

/-! DECRYPT_FINAL -/

/-- DF-1: C_EMPTY under K_T2 is the empty plaintext. -/
theorem test_decryptFinal_empty :
    after (exec .decryptFinal { dataState cipherEmpty 32 with key := keyT2 })
        (fun t => (t.bytesAt 0x1000 16, t.outLen, t.padLen, t.progress, t.readReg .status))
      = some (List.replicate 16 0x10, 0, 16, 1, 0x00000002) := by decide +kernel

/-- DF-11: DATA_LEN 17. -/
theorem test_decryptFinal_length :
    after (exec .decryptFinal { dataState (bytesOf 17 0x00) 32 with key := keyT2 })
        (fun t => (t.readReg .status, t.bytesAt 0x1000 17)) = some (0x00000302, List.replicate 17 0x00) := by
  decide +kernel

/-! UNPAD -/

/-- PAD-4 and PAD-5: three bytes of padding, strict. -/
theorem test_unpad_strict :
    after (exec .unpad (dataState (padBytes 0x03 0x03) 0)) (fun t => (t.readReg .status, t.outLen, t.padLen))
        = some (0x00000002, 13, 3)
      ∧ after (exec .unpad (dataState (padBytes 0x01 0x02) 0)) (fun t => (t.readReg .status, t.outLen, t.padLen))
        = some (0x00000402, 0, 3) := by decide +kernel

/-- PAD-6: the same bytes as PAD-5, lax. -/
theorem test_unpad_lax :
    after (exec .unpad { dataState (padBytes 0x01 0x02) 0 with ctrl := 0 })
      (fun t => (t.readReg .status, t.outLen, t.padLen)) = some (0x00000002, 13, 3) := by decide +kernel

/-! ILLEGAL -/

/-- IL-4: RSV is not 0 although OP is that of DERIVE. -/
theorem test_illegal_completes :
    after (step (State.reset.withFetchWord 32 0x00000101)) id
      = some { State.reset with errcode := 5, done := true } := by decide +kernel

/-! The algorithms -/

/-- SHA-2 and HM-2. -/
theorem test_hash_vectors :
    sha1 [0x61, 0x62, 0x63]
        = [0xa9, 0x99, 0x3e, 0x36, 0x47, 0x06, 0x81, 0x6a, 0xba, 0x3e, 0x25, 0x71, 0x78, 0x50, 0xc2, 0x6c, 0x9c, 0xd0,
          0xd8, 0x9d]
      ∧ hmacSha1 [0x4a, 0x65, 0x66, 0x65]
          [0x77, 0x68, 0x61, 0x74, 0x20, 0x64, 0x6f, 0x20, 0x79, 0x61, 0x20, 0x77, 0x61, 0x6e, 0x74, 0x20, 0x66, 0x6f,
            0x72, 0x20, 0x6e, 0x6f, 0x74, 0x68, 0x69, 0x6e, 0x67, 0x3f]
        = [0xef, 0xfc, 0xdf, 0x6a, 0xe5, 0xeb, 0x2f, 0xa2, 0xd2, 0x74, 0x16, 0xd5, 0xf1, 0x84, 0xdf, 0x9c, 0x25, 0x9a,
          0x7c, 0x79] := by decide +kernel

/-- The spot values of 95_test_vectors.md 2.5: the S-boxes, Rcon, InvMixColumns. -/
theorem test_aes_tables :
    sbox 0x53 = 0xED ∧ invSbox 0xFF = 0x7D ∧ rc 7 = 0x40
      ∧ [invMixByte 0x8e 0x4d 0xa1 0xbc, invMixByte 0x4d 0xa1 0xbc 0x8e, invMixByte 0xa1 0xbc 0x8e 0x4d,
          invMixByte 0xbc 0x8e 0x4d 0xa1] = [0xdb, 0x13, 0x53, 0x45] := by decide +kernel

/-! The bus, from reset (95_test_vectors.md 2.10) -/

/-- BUS-1 to BUS-6, BUS-13, BUS-14. -/
theorem test_bus_reads :
    [(0x000, BusSize.word), (0x004, .word), (0x008, .word), (0x00C, .word), (0x038, .word), (0x002, .word),
        (0x100, .word), (0x060, .word)].map
        (fun p => after (State.reset.busTransaction (.read p.1 p.2)) (fun t => t.response))
      = [some (some ⟨.okay, some 0x54325343⟩), some (some ⟨.okay, some 0x00010000⟩),
          some (some ⟨.okay, some 0x00000001⟩), some (some ⟨.okay, some 0x00000000⟩), some (some ⟨.error, some 0⟩),
          some (some ⟨.error, some 0⟩), some (some ⟨.error, some 0⟩), some (some ⟨.error, some 0⟩)] := by
  decide +kernel

/-- BUS-7 to BUS-9, BUS-12: no state changes. -/
theorem test_bus_writes_ignored :
    after (State.reset.busTransaction (.write 0x1000 .byte 0xFF)) id = some (State.reset.respond .error none)
      ∧ after (State.reset.busTransaction (.write 0x014 .half 0xFF)) id = some (State.reset.respond .error none)
      ∧ after (State.reset.busTransaction (.write 0x000 .word 0xFFFFFFFF)) id = some (State.reset.respond .okay none)
      ∧ after (State.reset.busTransaction (.write 0x010 .word 0xFFFFFFFF)) id = some (State.reset.respond .okay none) := by
  decide +kernel

/-- BUS-10 and BUS-11. -/
theorem test_bus_writes_masked :
    after (State.reset.busTransaction (.write 0x008 .word 0xFFFFFFFF)) (fun t => t.readReg .ctrl) = some 0x00000003
      ∧ after (State.reset.busTransaction (.write 0x014 .word 0x000001FF)) (fun t => t.readReg .passLen)
        = some 0x000000FF := by decide +kernel

/-- BUS-1 by address on a core at BASE 0x40000000, and an access below the window, which the core does not answer
(20_memory.md R71). -/
theorem test_bus_base :
    after ((coreAt 0x40000000).hostAccess (.read 0x40000000 .word)) (fun t => t.response)
        = some (some ⟨.okay, some 0x54325343⟩)
      ∧ after ((coreAt 0x40000000).hostAccess (.read 0x00000000 .word)) (fun t => t.response) = some none := by
  decide +kernel

/-- BUS-12 with every flag set: ACK's word clears the three, ERRCODE stays (10_state.md R29 to R32). -/
theorem test_status_write_clears :
    after ({ State.reset with done := true, cmdOvf := true, wrBusy := true, errcode := 4 }.busTransaction
      (.write 0x010 .word 0x0000000E)) (fun t => t.readReg .status) = some 0x00000400 := by decide +kernel

/-- PR-2 to PR-4: acceptance, a dropped command, a dropped write. -/
theorem test_protocol_busy :
    after (State.reset.busTransaction (.write 0x00C .word 0x00000001)) (fun t => t.readReg .status) = some 0x00000001
      ∧ after ((busyState 1).busTransaction (.write 0x00C .word 0x00000002)) (fun t => (t.readReg .status, t.pcmd))
        = some (0x00000005, some 0x00000001)
      ∧ after ((busyState 1).busTransaction (.write 0x028 .word 0x00000010)) (fun t => (t.readReg .status, t.dataLen))
        = some (0x00000009, 0) := by decide +kernel

/-- PR-8: a reset while DERIVE is busy. -/
theorem test_protocol_reset :
    after (step (withInputs { busyState 1 with key := keyT2, keylen := 32 } [.reset]))
      (fun t => (t.readReg .status, t.key, t.keylen, t.busy)) = some (0, Vector.replicate 32 0, 0, false) := by
  decide +kernel

/-- The words of LOAD PASS in program P1. -/
theorem test_load_words :
    loadWrites Buffer.pass.base passT2
      = [writeWord 0x080 0x4F423254, writeWord 0x084 0x4E535359, writeWord 0x088 0x4E414843, writeWord 0x08C 0x00524547]
      := by decide +kernel

/-! Witnesses: the hypotheses of each statement can be met, at the ends of their ranges -/

theorem witness_DecodeEncodeInverse :
    Instr.wellFormed .unpad = true ∧ Instr.wellFormed (.illegal 0x00000000) = true
      ∧ Instr.wellFormed (.illegal 0xFFFFFFFF) = true := by decide

/-- A word for each clause, at the ends of its range. -/
theorem witness_DecodeFollowsTheOpcodeMap :
    ((0x00000101 : Word).extractLsb' 8 24 ≠ 0 ∧ (0xFFFFFF00 : Word).extractLsb' 8 24 ≠ 0)
      ∧ (∀ v ∈ [0x01#32, 0x02#32, 0x03#32, 0x04#32],
          v.extractLsb' 8 24 = 0 ∧ v.extractLsb' 0 8 ∈ [0x01#8, 0x02#8, 0x03#8, 0x04#8])
      ∧ ∀ v ∈ [0x00#32, 0x05#32, 0xFF#32],
          v.extractLsb' 8 24 = 0 ∧ v.extractLsb' 0 8 ∉ [0x01#8, 0x02#8, 0x03#8, 0x04#8] := by
  refine ⟨by decide, ?_, ?_⟩
  · intro v hv
    simp only [List.mem_cons, List.not_mem_nil, or_false] at hv
    rcases hv with rfl | rfl | rfl | rfl <;> decide
  · intro v hv
    simp only [List.mem_cons, List.not_mem_nil, or_false] at hv
    rcases hv with rfl | rfl | rfl <;> decide

theorem witness_ByteStringsDecodeWhole :
    ([0x01, 0x00, 0x00, 0x00] : List Byte).length = 4 ∧ ([0x01, 0x00, 0x00] : List Byte).length ≠ 4
      ∧ ([0x01, 0x00, 0x00, 0x00, 0x00] : List Byte).length ≠ 4 := by decide

/-- Legal sizes of DATA at both ends. The last word of each buffer is present, and stands at its offset. -/
theorem witness_RegisterMapInverse :
    Config.legalDataBytes 16 ∧ Config.legalDataBytes 4096 ∧ Config.legalDataBytes (2 ^ 31)
      ∧ Reg.present 16 (.data 3) = true ∧ Reg.present 4096 (.data 1023) = true ∧ Reg.present 16 (.data 4) = false
      ∧ regAt 4096 0x034 = some .progress ∧ regAt 4096 0x05C = some (.key 7) ∧ regAt 4096 0x0BC = some (.pass 15)
      ∧ regAt 4096 0x0FC = some (.salt 15) ∧ regAt 16 0x100C = some (.data 3) ∧ regAt 16 0x1010 = none := by decide +kernel

theorem witness_AddrBitsIsLeast :
    (Config.legalDataBytes 16 ∧ 0x1000 + 16 ≤ 2 ^ 13) ∧ (Config.legalDataBytes 4096 ∧ 0x1000 + 4096 ≤ 2 ^ 13)
      ∧ Config.legalDataBytes (2 ^ 31) ∧ 0x1000 + 2 ^ 31 ≤ 2 ^ 32 := by decide

/-- The window of the default core ends at 0x2000. -/
theorem witness_MalformedTransactionChangesNothing :
    (0x001 < Config.windowBytes State.reset.dataBytes ∧ 0x001 % 4 ≠ 0)
      ∧ (0x1FFF < Config.windowBytes State.reset.dataBytes ∧ 0x1FFF % 4 ≠ 0)
      ∧ 0x1000 < Config.windowBytes State.reset.dataBytes ∧ BusSize.byte ≠ .word ∧ BusSize.half ≠ .word := by decide

/-- Both ends of each reserved range, and the defined offsets beside them, on the smallest core. -/
theorem witness_ReservedOffsetsAnswerError :
    Config.legalDataBytes 16
      ∧ (∀ off ∈ [0x038, 0x03C, 0x060, 0x07C, 0x100, 0xFFC, 0x1010, 0x1FFC],
          off % 4 = 0 ∧ off < Config.windowBytes 16
            ∧ ((0x038 ≤ off ∧ off ≤ 0x03C) ∨ (0x060 ≤ off ∧ off ≤ 0x07C) ∨ (0x100 ≤ off ∧ off ≤ 0xFFC)
                ∨ 0x1000 + 16 ≤ off))
      ∧ ∀ off ∈ [0x034, 0x040, 0x05C, 0x080, 0x0FC, 0x1000, 0x100C],
          off % 4 = 0 ∧ off < Config.windowBytes 16 ∧ busTarget 16 off .word ≠ none := by decide

theorem witness_OffsetOutsideWindowFaults :
    Config.windowBytes State.reset.dataBytes ≤ 0x2000 ∧ 0x1FFF < Config.windowBytes State.reset.dataBytes := by decide

theorem witness_IdleReadReturnsStoredValue :
    Config.legalDataBytes State.reset.dataBytes ∧ Reg.present State.reset.dataBytes .id = true
      ∧ Reg.present State.reset.dataBytes (.data 1023) = true ∧ State.reset.busy = false := by decide

theorem witness_StatusWordLayout :
    (0xFFFFFFFF : Word).extractLsb' 1 3 = (0x0000000E : Word).extractLsb' 1 3 := by decide

/-- An Idle state, and a register for each clause: the last word of KEY, PASS, SALT and DATA. -/
theorem witness_BufferWordsAreLittleEndian :
    State.reset.busy = false ∧ (31 : Fin 32).val / 4 ≠ (6 : Fin 8).val
      ∧ (∃ j : Fin 16, Reg.pass 15 = .pass j ∧ 0x0BC = 0x080 + 4 * j.val)
      ∧ (∃ j : Fin 16, Reg.salt 15 = .salt j ∧ 0x0FC = 0x0C0 + 4 * j.val)
      ∧ ∃ j : Nat, Reg.data 1023 = .data j ∧ 0x1FFC = 0x1000 + 4 * j :=
  ⟨by decide, by decide, by decide, by decide, 1023, rfl, rfl⟩

theorem witness_IdleWriteStores :
    Config.legalDataBytes State.reset.dataBytes ∧ State.reset.busy = false
      ∧ (∀ r ∈ [Reg.ctrl, .keylen, .iter, .key 7, .pass 0, .salt 15, .data 1023],
          r.present State.reset.dataBytes = true ∧ r.plainStore = true)
      ∧ Reg.ctrl ≠ .iter := by decide

theorem witness_ReadOnlyWritesIgnored :
    Config.legalDataBytes (busyState 1).dataBytes
      ∧ Reg.progress ∈ [Reg.id, Reg.version, Reg.outLen, Reg.padLen, Reg.progress] := by decide

/-- A Busy core, a read-only register and a plain-store register for the last two clauses. -/
theorem witness_WritesWhileBusy :
    Config.legalDataBytes (busyState 1).dataBytes ∧ (busyState 1).busy = true ∧ Reg.readOnly .outLen = true
      ∧ Reg.plainStore (.data 1023) = true ∧ Reg.present (busyState 1).dataBytes (.data 1023) = true := by decide

/-- A Busy core, and registers on both sides of 20_memory.md R70. -/
theorem witness_ReadsWhileBusy :
    Config.legalDataBytes (busyState 1).dataBytes ∧ (busyState 1).busy = true
      ∧ Reg.present (busyState 1).dataBytes (.data 1023) = true ∧ Reg.present (busyState 1).dataBytes (.pass 15) = true
      ∧ Reg.keylen ∈ [Reg.keylen, Reg.outLen, Reg.padLen, Reg.progress]
      ∧ Reg.dataLen ∈ [Reg.id, Reg.version, Reg.ctrl, Reg.cmd, Reg.status, Reg.passLen, Reg.saltLen, Reg.iter,
          Reg.dklen, Reg.dataLen] := by decide

theorem witness_AcceptanceOfAnyWord :
    Config.legalDataBytes State.reset.dataBytes ∧ State.reset.busy = false := by decide

/-- All three flags set, while Idle. -/
theorem witness_AcknowledgementClearsDone :
    Config.legalDataBytes { State.reset with done := true, cmdOvf := true, wrBusy := true }.dataBytes
      ∧ { State.reset with done := true, cmdOvf := true, wrBusy := true }.busy = false := by decide

theorem witness_InterruptLevel :
    { State.reset with done := true }.busy = false ∧ { State.reset with done := true }.done = true := by decide

theorem witness_StepRunsThePendingCommand :
    ((busyState 3).pcmd = some 3 ∧ (busyState 3).pending = [])
      ∧ (withInputs (busyState 3) [.engine, .reset]).pcmd = some 3
      ∧ (withInputs (busyState 3) [.engine, .reset]).pending = [.engine, .reset] := by decide

/-- A core at BASE 0x40000000: each kind of input at the head of the queue, and the addresses at both ends of the window. -/
theorem witness_StepTakesTheNextInput :
    (withInputs State.reset [.host (.read 0x000 .word), .engine]).pending = [.host (.read 0x000 .word), .engine]
      ∧ (withInputs (coreAt 0x40000000) [.access ((Transaction.read 0x1FFC .word).atBase 0x40000000)]).pending
        = [.access (.read 0x40001FFC .word)]
      ∧ (Transaction.read 0x1FFC .word).off < Config.windowBytes (coreAt 0x40000000).dataBytes
      ∧ (Access.read 0x3FFFFFFC .word).addr < (coreAt 0x40000000).base
      ∧ (coreAt 0x40000000).base + Config.windowBytes (coreAt 0x40000000).dataBytes
        ≤ (Access.read 0x40002000 .word).addr
      ∧ (withInputs State.reset [.reset]).pending = [.reset]
      ∧ (withInputs State.reset [.engine]).busy = false ∧ (withInputs State.reset [.engine]).pending = [.engine]
      ∧ State.reset.busy = false ∧ State.reset.pending = [] := by decide +kernel

theorem witness_PlacedWordRunsNext : 0 < 2 ^ 32 ∧ 0xFFFFFFFF < 2 ^ 32 := by decide

/-- A step that accepts a command at the port, one that accepts it by address, and one that completes it. -/
theorem witness_BusyChangesOnlyAtAcceptanceAndCompletion :
    (State.reset.busy = false ∧ step (withInputs State.reset [writeWord 0x00C 0x00000009])
        = .next { busyState 9 with response := some ⟨.okay, none⟩ } ∧ (busyState 9).busy = true)
      ∧ step (withInputs (coreAt 0x40000000) [.access (.write 0x4000000C .word 0x00000009)])
        = .next { busyState 9 with base := 0x40000000, response := some ⟨.okay, none⟩ }
      ∧ step (busyState 9) = .next { State.reset with errcode := 5, done := true } :=
  ⟨⟨rfl, next_of_after (by decide +kernel), rfl⟩, next_of_after (by decide +kernel), next_of_after (by decide +kernel)⟩

/-- A host write of ITER while Idle, and an access by address that misses the window. -/
theorem witness_ResultsStayUntilNextAcceptance :
    ((withInputs State.reset [writeWord 0x01C 7]).pending = [.host (.write 0x01C .word 7)]
      ∧ step (withInputs State.reset [writeWord 0x01C 7])
        = .next { State.reset with iter := 7, response := some ⟨.okay, none⟩ })
      ∧ InputEvent.isHost (.access (.write 0x2000 .word 7)) = true
      ∧ step (withInputs State.reset [.access (.write 0x2000 .word 7)]) = .next State.reset :=
  ⟨⟨rfl, next_of_after (by decide +kernel)⟩, rfl, next_of_after (by decide +kernel)⟩

/-- A Busy core with two host transactions and an access by address before the engine's turn. -/
theorem witness_RunningCommandCannotBeChanged :
    (withInputs (busyState 2) [writeWord 0x028 0x10, readWord 0x010, .access (.write 0x1000 .word 1), .engine]).busy = true
      ∧ (withInputs (busyState 2) [writeWord 0x028 0x10, readWord 0x010, .access (.write 0x1000 .word 1), .engine]).pending
        = [writeWord 0x028 0x10, readWord 0x010, .access (.write 0x1000 .word 1)] ++ [.engine]
      ∧ ∀ e ∈ [writeWord 0x028 0x10, readWord 0x010, .access (.write 0x1000 .word 1)],
          e.isHost = true ∧ e.presentable (busyState 2).dataBytes = true := by decide

theorem witness_EveryAcceptedCommandCompletes :
    (withInputs (busyState 2) [readWord 0x010, .access (.read 0x9000 .word)]).busy = true
      ∧ ∀ e ∈ (withInputs (busyState 2) [readWord 0x010, .access (.read 0x9000 .word)]).pending,
          e ≠ .reset ∧ e.presentable (busyState 2).dataBytes = true := by decide

/-- A Busy state with data in memory meets the invariant, and its step answers a next state. -/
theorem witness_EveryStepKeepsTheInvariant :
    State.Inv ((dataState (padBytes 0x03 0x03) 0).accept 4)
      ∧ (after (step ((dataState (padBytes 0x03 0x03) 0).accept 4)) (fun t => t.outLen) = some 13) := by
  refine ⟨⟨?_, ?_, ?_, ?_, ?_, ?_⟩, ?_⟩ <;> decide +kernel

theorem witness_ResetClearsRegistersAndKey :
    (withInputs { busyState 1 with key := keyT2, keylen := 32 } [.reset]).pending = .reset :: [] := by decide

theorem witness_BuffersAreDrawsAfterReset :
    (withInputs (dataState cipherEmpty 32) [.reset, .engine]).pending = .reset :: [.engine] := by decide

/-- The empty LOAD, one that ends inside a word, and the longest one of PASS. -/
theorem witness_LoadFillsTheBuffer :
    Config.legalDataBytes State.reset.dataBytes ∧ State.reset.busy = false
      ∧ (([] : List Byte).length ≤ Buffer.key.size 4096 ∧ State.reset.pending = loadWrites Buffer.key.base [] ++ [])
      ∧ (passT2.length ≤ Buffer.pass.size 4096
        ∧ (withInputs State.reset (loadWrites Buffer.pass.base passT2 ++ [.engine])).pending
          = loadWrites Buffer.pass.base passT2 ++ [.engine])
      ∧ (bytesOf 64 0x41).length ≤ Buffer.pass.size 4096 ∧ Buffer.salt ≠ .pass := by decide +kernel

/-- Operands at the least and at the greatest legal values, and none. -/
theorem witness_DeriveCommand :
    DeriveReady (deriveState [0x00] [0x00] 1 1)
      ∧ DeriveReady { State.reset with passLen := 64, saltLen := 64, iter := 0xFFFFFFFF, dklen := 32 }
      ∧ ¬ DeriveReady State.reset := by
  refine ⟨⟨?_, ?_, ?_, ?_⟩, ⟨?_, ?_, ?_, ?_⟩, fun h => absurd h.2.2.1 ?_⟩ <;> decide +kernel

/-- KD-5 to KD-11: one operand out of range at a time. -/
theorem witness_FailedDeriveIsAtomic :
    (deriveState [] saltT2 10000 32).passLen = 0 ∧ (deriveState passT2 [] 10000 32).saltLen = 0
      ∧ (deriveState passT2 saltT2 0 32).iter = 0 ∧ (deriveState passT2 saltT2 10000 0).dklen = 0
      ∧ 64 < { State.reset with passLen := 65 }.passLen.toNat ∧ 64 < { State.reset with saltLen := 65 }.saltLen.toNat
      ∧ 32 < (deriveState passT2 saltT2 10000 33).dklen.toNat := by decide +kernel

theorem witness_ShortKeyIsZeroFilledAndRejected :
    (DeriveReady (deriveState passT2 saltT2 10000 1) ∧ (deriveState passT2 saltT2 10000 1).dklen.toNat < 32)
      ∧ DeriveReady (deriveState passT2 saltT2 10000 31) ∧ (deriveState passT2 saltT2 10000 31).dklen.toNat < 32
      ∧ (deriveState passT2 saltT2 10000 31).dklen.toNat ≤ (31 : Fin 32).val := by
  refine ⟨⟨⟨?_, ?_, ?_, ?_⟩, ?_⟩, ⟨?_, ?_, ?_, ?_⟩, ?_, ?_⟩ <;> decide +kernel

theorem witness_DerivedKeyPrefix : 1 ≤ 1 ∧ 0 ≤ 32 ∧ 20 ≤ 21 ∧ 1 ≤ 2 ^ 32 - 1 := by decide

/-- Two states that differ in the bytes of PASS beyond PASS_LEN. -/
theorem witness_DeriveDependsOnOperandsOnly :
    DeriveReady (deriveState [0x41] [0x42] 1 32)
      ∧ (∀ i, i < 1 → ((deriveState [0x41] [0x42] 1 32).storeBytes 0x0BF [0xFF]).byteAt (0x080 + i)
          = (deriveState [0x41] [0x42] 1 32).byteAt (0x080 + i))
      ∧ ∀ i, i < 1 → ((deriveState [0x41] [0x42] 1 32).storeBytes 0x0BF [0xFF]).byteAt (0x0C0 + i)
          = (deriveState [0x41] [0x42] 1 32).byteAt (0x0C0 + i) := by
  refine ⟨⟨?_, ?_, ?_, ?_⟩, ?_, ?_⟩ <;> decide +kernel

theorem witness_IterationCount :
    1 ≤ 1 ∧ DeriveReady { State.reset with passLen := 1, saltLen := 1, iter := 0xFFFFFFFF, dklen := 32 } := by
  refine ⟨?_, ?_, ?_, ?_, ?_⟩ <;> decide

theorem witness_Sha1PaddingFillsBlocks : (bytesOf 55 0x61).length = 55 ∧ (bytesOf 56 0x61).length = 56 := by
  decide +kernel

theorem witness_DigestLengths : 1 ≤ 1 := by decide

/-- The first and last words made, and one for each case of i mod 8. -/
theorem witness_KeyExpansionRecurrence :
    1 ≤ 6 ∧ (8 ≤ 8 ∧ 8 < 60 ∧ 8 % 8 = 0) ∧ (8 ≤ 12 ∧ 12 < 60 ∧ 12 % 8 = 4)
      ∧ 8 ≤ 59 ∧ 59 < 60 ∧ 59 % 8 ≠ 0 ∧ 59 % 8 ≠ 4 := by decide

/-- One block, and two equal ones. -/
theorem witness_EcbBlocksAreIndependent :
    (1 ≤ 1 ∧ cipherEmpty.length = 16 * 1)
      ∧ 1 ≤ 2 ∧ (cipherEmpty ++ cipherEmpty).length = 16 * 2
      ∧ ((cipherEmpty ++ cipherEmpty).drop (16 * 0)).take 16 = ((cipherEmpty ++ cipherEmpty).drop (16 * 1)).take 16 := by
  decide

/-- KEYLEN 0, 31, 33 and 32. -/
theorem witness_KeyCheckComesFirst :
    Instr.decryptFinal ∈ [Instr.decrypt, Instr.decryptFinal] ∧ { State.reset with keylen := 32 }.keylen.toNat = 32 ∧
    State.reset.keylen.toNat ≠ 32 ∧ { State.reset with keylen := 31 }.keylen.toNat ≠ 32
      ∧ { State.reset with keylen := 33 }.keylen.toNat ≠ 32 := by decide

/-- DATA_LEN 0, 15, 17 and DATA_BYTES + 16, and the legal 16 and DATA_BYTES. -/
theorem witness_LengthCheck :
    State.reset.dataLen = 0 ∧ { State.reset with dataLen := 15 }.dataLen.toNat % 16 ≠ 0
      ∧ { State.reset with dataLen := 17 }.dataLen.toNat % 16 ≠ 0
      ∧ State.reset.dataBytes < { State.reset with dataLen := 4112 }.dataLen.toNat
      ∧ { State.reset with keylen := 32 }.keylen.toNat = 32
      ∧ ∀ n ∈ [16, 4096], 0 < n ∧ n % 16 = 0 ∧ n ≤ State.reset.dataBytes := by decide

/-- One block, and the whole buffer. -/
theorem witness_DecryptCommand :
    DecryptReady (dataState cipherEmpty 32) ∧ DecryptReady { State.reset with keylen := 32, dataLen := 4096 } := by
  refine ⟨⟨?_, ?_, ?_, ?_⟩, ?_, ?_, ?_, ?_⟩ <;> decide +kernel

/-- DF-1, where the padding check passes, and DF-5 (L1-8a), where it fails. -/
theorem witness_DecryptFinalCommand :
    (DecryptReady { dataState cipherEmpty 32 with key := keyT2 } ∧ (padCheck (ecbDec keyT2 cipherEmpty) true).1 = true)
      ∧ DecryptReady { dataState cipherBadPad 32 with key := keyT2 }
      ∧ (padCheck (ecbDec keyT2 cipherBadPad) true).1 = false := by
  refine ⟨⟨⟨?_, ?_, ?_, ?_⟩, ?_⟩, ⟨?_, ?_, ?_, ?_⟩, ?_⟩ <;> decide +kernel

/-- PAD-4, where the check passes, and PAD-5, where it fails. -/
theorem witness_UnpadCommand :
    (0 < (dataState (padBytes 0x03 0x03) 0).dataLen.toNat ∧ (dataState (padBytes 0x03 0x03) 0).dataLen.toNat % 16 = 0
        ∧ (dataState (padBytes 0x03 0x03) 0).dataLen.toNat ≤ (dataState (padBytes 0x03 0x03) 0).dataBytes)
      ∧ (padCheck (padBytes 0x03 0x03) true).1 = true ∧ (padCheck (padBytes 0x01 0x02) true).1 = false := by
  decide +kernel

theorem witness_IllegalCommandWritesNothingElse :
    decode 0x00000000 = .illegal 0x00000000 ∧ decode 0xFFFFFFFF = .illegal 0xFFFFFFFF := by decide

theorem witness_PadCheckMeaning :
    0 < (padBytes 0x03 0x03).length ∧ (padBytes 0x03 0x03).length % 16 = 0 := by decide

theorem witness_OnlyTheLastBlockMatters : (padBytes 0x03 0x03).length = 16 := by decide

/-- UNPAD on PAD-4 completes with OK, and so does DECRYPT_FINAL on DF-1. -/
theorem witness_LengthsAfterSuccess :
    after (exec .unpad (dataState (padBytes 0x03 0x03) 0)) (fun t => t.errcode) = some 0
      ∧ after (exec .decryptFinal { dataState cipherEmpty 32 with key := keyT2 }) (fun t => t.errcode) = some 0 := by
  decide +kernel

theorem witness_UnpadAfterDecryptIsDecryptFinal : DecryptReady { dataState cipherEmpty 32 with key := keyT2 } := by
  refine ⟨?_, ?_, ?_, ?_⟩ <;> decide +kernel

/-- Two states that differ in ITER and in the byte of DATA after DATA_LEN. -/
theorem witness_DecryptionIsAPureFunction :
    ((dataState cipherEmpty 32).strictPad = { (dataState cipherEmpty 32).storeBytes 0x1010 [0xFF] with iter := 9 }.strictPad)
      ∧ ∀ j, j < 16 → { (dataState cipherEmpty 32).storeBytes 0x1010 [0xFF] with iter := 9 }.byteAt (0x1000 + j)
        = (dataState cipherEmpty 32).byteAt (0x1000 + j) := by decide +kernel

/-- One chunk and the last one, against the whole. -/
theorem witness_ChunkedDecryptionComposes :
    DecryptReady (dataState cipherEmpty 32) ∧ DecryptReady (dataState (cipherEmpty ++ cipherEmpty) 32)
      ∧ (dataState (cipherEmpty ++ cipherEmpty) 32).dataInput
        = [dataState cipherEmpty 32].flatMap State.dataInput ++ (dataState cipherEmpty 32).dataInput := by
  refine ⟨⟨?_, ?_, ?_, ?_⟩, ⟨?_, ?_, ?_, ?_⟩, ?_⟩ <;> decide +kernel

/-- The empty plaintext: its encryption under K_T2 is C_EMPTY (L1-2). -/
theorem witness_EncryptThenDecryptFinal :
    { dataState cipherEmpty 32 with key := keyT2 }.keylen.toNat = 32
      ∧ { dataState cipherEmpty 32 with key := keyT2 }.dataLen.toNat ≤ 4096
      ∧ { dataState cipherEmpty 32 with key := keyT2 }.dataInput = ecbEnc keyT2 (pkcs7Pad []) := by decide +kernel

end Sys2Proof.Tests
end

section
/-! PROOFS. The scope's statements: the width of the port's offsets (00_scope.md R9) and the moves of a step (R10). -/

namespace Sys2Proof.Machine

open Sys2Proof

/-! The width of an offset -/

/-- ADDR_BITS is at most exactly those widths that hold the window, for any size of DATA. -/
theorem addrBits_le_iff (n m : Nat) : Config.addrBits n ≤ m ↔ 0x1000 + n ≤ 2 ^ m := by
  have hpos : 0x1000 + n - 1 ≠ 0 := by omega
  calc Config.addrBits n ≤ m ↔ Nat.log2 (0x1000 + n - 1) < m := Nat.succ_le_iff
    _ ↔ 0x1000 + n - 1 < 2 ^ m := Nat.log2_lt hpos
    _ ↔ 0x1000 + n ≤ 2 ^ m := by omega

/-- Settles O6: both halves of "least" are `addrBits_le_iff`, and they do not need DATA_BYTES to be legal. -/
theorem addrBitsIsLeast : Obligations.AddrBitsIsLeast := by
  refine ⟨fun n _ => ⟨?holds, fun m => ?least⟩, ?default⟩
  case holds => exact (addrBits_le_iff n _).mp le_rfl
  case least => exact (addrBits_le_iff n m).mpr
  case default => decide

/-! The moves of a step -/

/-- The engine is Idle exactly when it holds no command (10_state.md R50). -/
theorem State.busy_eq_false_iff {s : State} : s.busy = false ↔ s.pcmd = none :=
  Option.isSome_eq_false_iff.trans Option.isNone_iff_eq_none

/-- An address before BASE or past the end of the window is not in the window. -/
theorem State.inWindow_outside {s : State} {addr : Nat}
    (h : addr < s.base ∨ s.base + Config.windowBytes s.dataBytes ≤ addr) : s.inWindow addr = false := by
  simp only [State.inWindow, Bool.and_eq_false_iff, decide_eq_false_iff_not]
  omega

/-- Settles O22: `step_of_cons` hands the head of the queue to `State.takeInput`, whose meaning for each kind of input is a
law of its own. -/
theorem stepTakesTheNextInput : Obligations.StepTakesTheNextInput := by
  intro s rest
  refine ⟨fun t hp => ?host, fun t ht hp => ?inside, fun a ha hp => ?outside, fun hp => ?reset, fun hb hp => ?idleTurn,
    fun hb hp => ?noInput⟩
  case host => exact step_of_cons hp
  case inside => exact (step_of_cons hp).trans (State.hostAccess_atBase { s with pending := rest } ht)
  case outside =>
    have hout : State.inWindow { s with pending := rest } a.addr = false := State.inWindow_outside ha
    exact (step_of_cons hp).trans (State.hostAccess_outside hout)
  case reset => exact step_of_cons hp
  case idleTurn =>
    have hnone : State.pcmd { s with pending := rest } = none := State.busy_eq_false_iff.mp hb
    exact (step_of_cons hp).trans (State.engineTurn_idle hnone)
  case noInput => exact (step_of_nil hp).trans (State.engineTurn_idle (State.busy_eq_false_iff.mp hb))

end Sys2Proof.Machine
end

section
/-! PROOFS. The state's statements: the register map (10_state.md R23), the STATUS word (R33), the read-only registers
(R48) and the port's offsets (R53). -/

namespace Sys2Proof.Machine

open Sys2Proof

/-! The register map -/

/-- Every register stands at an aligned offset. -/
theorem Reg.offset_mod_four (r : Reg) : r.offset % 4 = 0 := by
  cases r <;> simp [Reg.offset]

/-- The map finds every register that exists at its offset, for any size of DATA. -/
theorem regAt_offset {n : Nat} {r : Reg} (h : r.present n = true) : regAt n r.offset = some r := by
  cases r
  case key j | pass j | salt j =>
    simp (disch := omega) [regAt, Reg.offset, if_neg, if_pos]
  case data j =>
    have hin : 4 * j < n := of_decide_eq_true h
    simp (disch := omega) [regAt, Reg.offset, if_neg, if_pos]
  all_goals rfl

/-- Place q of the fixed list holds the register at offset 4q, which exists for any size of DATA. -/
theorem fixedRegs_getElem?_some {q : Nat} {r : Reg} (h : fixedRegs[q]? = some r) :
    r.offset = 4 * q ∧ ∀ n, r.present n = true := by
  have hq : q < 14 := (List.getElem?_eq_some_iff.mp h).1
  interval_cases q <;> cases h <;> exact ⟨rfl, fun _ => rfl⟩

/-- What the map finds at an aligned offset stands there and exists, for any size of DATA. -/
theorem regAt_some {n off : Nat} {r : Reg} (h4 : off % 4 = 0) (h : regAt n off = some r) :
    r.offset = off ∧ r.present n = true := by
  unfold regAt at h
  split_ifs at h with hfixed hkey hpass hsalt hdata
  · obtain ⟨hoff, hpresent⟩ := fixedRegs_getElem?_some h
    exact ⟨by omega, hpresent n⟩
  all_goals
    cases h
    simp only [Reg.offset, Reg.present, decide_eq_true_eq, and_true, Fin.val_ofNat, keyBase, passBase, saltBase,
      dataBase, Config.keyBytes, Config.passMax, Config.saltMax] at *
    omega

/-- Settles O5: `regAt_offset` and `regAt_some` are the two directions, and they do not need DATA_BYTES to be legal. -/
theorem registerMapInverse : Obligations.RegisterMapInverse :=
  fun _ _ => ⟨fun r hr => ⟨regAt_offset hr, r.offset_mod_four⟩, fun _ _ => regAt_some⟩

/-! The STATUS word -/

/-- To or a number into the low k zero bits of another is to add it. -/
theorem or_eq_add_of_dvd {k a b : Nat} (ha : 2 ^ k ∣ a) (hb : b < 2 ^ k) : a ||| b = a + b := by
  obtain ⟨c, rfl⟩ := ha
  exact (Nat.two_pow_add_eq_or_of_lt hb c).symm

/-- STATUS is the sum of its fields, each at its weight: no two of them overlap. -/
theorem State.toNat_statusWord (s : State) :
    s.statusWord.toNat
      = 256 * s.errcode.toNat + 8 * s.wrBusy.toNat + 4 * s.cmdOvf.toNat + 2 * s.done.toNat + s.busy.toNat := by
  have he := s.errcode.isLt
  have hw := s.wrBusy.toNat_le
  have ho := s.cmdOvf.toNat_le
  have hd := s.done.toNat_le
  have hb := s.busy.toNat_le
  simp (disch := omega) only [State.statusWord, BitVec.toNat_or, BitVec.toNat_shiftLeft, BitVec.toNat_setWidth,
    BitVec.toNat_ofBool, Nat.shiftLeft_eq, Nat.mod_eq_of_lt]
  rw [or_eq_add_of_dvd (k := 8) (b := s.wrBusy.toNat * 2 ^ 3) (by omega) (by omega),
    or_eq_add_of_dvd (k := 3) (b := s.cmdOvf.toNat * 2 ^ 2) (by omega) (by omega),
    or_eq_add_of_dvd (k := 2) (b := s.done.toNat * 2 ^ 1) (by omega) (by omega),
    or_eq_add_of_dvd (k := 1) (b := s.busy.toNat) (by omega) (by omega)]
  omega

/-- STATUS is ERRCODE above a byte that holds the four flags, whose sum is less than 16. -/
theorem State.toNat_statusWord_flags (s : State) :
    ∃ flags < 16, s.statusWord.toNat = 256 * s.errcode.toNat + flags := by
  have hw := s.wrBusy.toNat_le
  have ho := s.cmdOvf.toNat_le
  have hd := s.done.toNat_le
  have hb := s.busy.toNat_le
  refine ⟨8 * s.wrBusy.toNat + 4 * s.cmdOvf.toNat + 2 * s.done.toNat + s.busy.toNat, by omega, ?_⟩
  rw [s.toNat_statusWord]
  omega

/-- A range of bits reads 0 where the number has the digit 0 there. -/
theorem extractLsb'_eq_zero {v : Word} {start len : Nat} (h : v.toNat / 2 ^ start % 2 ^ len = 0) :
    v.extractLsb' start len = 0 := by
  apply BitVec.eq_of_toNat_eq
  rw [BitVec.extractLsb'_toNat, Nat.shiftRight_eq_div_pow, h]
  rfl

/-- A STATUS write looks at bits 3:1 of the word only. -/
theorem State.writeStatus_congr (s : State) {v v' : Word} (h : v.extractLsb' 1 3 = v'.extractLsb' 1 3) :
    s.writeStatus v = s.writeStatus v' := by
  have hbit : ∀ i < 3, v.getLsbD (1 + i) = v'.getLsbD (1 + i) := fun i hi => by
    simpa [hi] using congrArg (·.getLsbD i) h
  simp only [State.writeStatus, hbit 0 (by decide), hbit 1 (by decide), hbit 2 (by decide)]

/-- A STATUS write takes effect whether the engine is Idle or Busy. -/
@[simp] theorem State.writeReg_status (s : State) (v : Word) : s.writeReg .status v = s.writeStatus v := by
  cases hb : s.busy <;> simp [State.writeReg, hb, State.writeIdle, State.writeBusy]

/-- Settles O12: the two reserved ranges are read off the numeric layout, and the write rule sees bits 3:1 only. -/
theorem statusWordLayout : Obligations.StatusWordLayout := by
  intro s
  obtain ⟨flags, hflags, hword⟩ := s.toNat_statusWord_flags
  have herr := s.errcode.isLt
  refine ⟨?layout, ?low, ?high, fun v v' h => ?write⟩
  case layout =>
    refine s.toNat_statusWord.trans ?_
    simp [Bool.toNat, cond_eq_ite]
  case low => exact extractLsb'_eq_zero (v := s.statusWord) (by rw [hword]; omega)
  case high => exact extractLsb'_eq_zero (v := s.statusWord) (by rw [hword]; omega)
  case write => rw [State.writeReg_status, State.writeReg_status, s.writeStatus_congr h]

/-! Writes to the read-only registers -/

/-- A transaction of size 4 at the offset of a register that exists reaches it. -/
theorem busTarget_offset {n : Nat} {r : Reg} (h : r.present n = true) : busTarget n r.offset .word = some r := by
  rw [busTarget, if_pos rfl, if_pos r.offset_mod_four, regAt_offset h]

/-- A register that exists stands inside the window. -/
theorem Reg.offset_lt_windowBytes {n : Nat} {r : Reg} (h : r.present n = true) : r.offset < Config.windowBytes n := by
  have hwindow : 0x1000 + n ≤ Config.windowBytes n := (addrBits_le_iff n _).mp le_rfl
  have hoff : r.offset < 0x1000 + n := by
    cases r
    case data j => exact Nat.add_lt_add_left (of_decide_eq_true h) _
    all_goals simp only [Reg.offset, keyBase, passBase, saltBase]; omega
  exact hoff.trans_le hwindow

/-- A host write of a register that exists gets OKAY and follows the register's write rule. -/
theorem State.busTransaction_write_offset {s : State} {r : Reg} (h : r.present s.dataBytes = true) (v : Word) :
    s.busTransaction (.write r.offset .word v) = .next ((s.writeReg r v).respond .okay none) := by
  have hin : (Transaction.write r.offset .word v).off < Config.windowBytes s.dataBytes := Reg.offset_lt_windowBytes h
  simp only [State.busTransaction, if_pos hin, State.memWrite, busTarget_offset h]

/-- Every read-only register exists for any size of DATA. -/
theorem Reg.present_of_readOnly {r : Reg} (h : r.readOnly = true) (n : Nat) : r.present n = true := by
  cases r
  case data j => cases h
  all_goals rfl

/-- A write of a read-only register changes nothing, Idle or Busy. -/
theorem State.writeReg_readOnly (s : State) {r : Reg} (h : r.readOnly = true) (v : Word) : s.writeReg r v = s := by
  unfold State.writeReg
  cases r
  case id | version | outLen | padLen | progress => exact ite_self s
  all_goals cases h

/-- The read-only registers are those of 10_state.md R48. -/
theorem Reg.readOnly_iff {r : Reg} :
    r.readOnly = true ↔ r ∈ [Reg.id, Reg.version, Reg.outLen, Reg.padLen, Reg.progress] := by
  cases r <;> simp [Reg.readOnly]

/-- Settles O15: the write reaches the register, whose write rule leaves the state as it is. -/
theorem readOnlyWritesIgnored : Obligations.ReadOnlyWritesIgnored := by
  intro s r v _ hr
  have hro : r.readOnly = true := Reg.readOnly_iff.mpr hr
  rw [State.busTransaction_write_offset (Reg.present_of_readOnly hro _), s.writeReg_readOnly hro]
  rfl

/-! Offsets outside the port -/

/-- A transaction whose offset does not fit the port faults. -/
theorem State.busTransaction_outside {s : State} {e : Transaction} (h : Config.windowBytes s.dataBytes ≤ e.off) :
    s.busTransaction e = .fault .offsetOutsideWindow :=
  if_neg h.not_gt

/-- Settles O9: a read and a write at the offset both fall outside the port. -/
theorem offsetOutsideWindowFaults : Obligations.OffsetOutsideWindowFaults :=
  fun _ _ _ _ h => ⟨State.busTransaction_outside h, State.busTransaction_outside h⟩

end Sys2Proof.Machine
end

section
/-! PROOFS. The bus's statements: bus errors (20_memory.md R65 to R67), reads and writes while Idle (R61 to R63) and while
Busy (R69, R70), and that no host input reaches a running command (R77; 70_reset_and_hazards.md R196). -/

namespace Sys2Proof.Machine

open Sys2Proof

/-! Transactions that reach no register -/

/-- A transaction inside the window that reaches no register gets ERROR, a read with data 0, and changes no state. -/
theorem State.busTransaction_error {s : State} {off : Nat} {size : BusSize} (hin : off < Config.windowBytes s.dataBytes)
    (hnone : busTarget s.dataBytes off size = none) (v : Word) :
    s.busTransaction (.read off size) = .next (s.respond .error (some 0))
      ∧ s.busTransaction (.write off size v) = .next (s.respond .error none) := by
  have hread : (Transaction.read off size).off < Config.windowBytes s.dataBytes := hin
  have hwrite : (Transaction.write off size v).off < Config.windowBytes s.dataBytes := hin
  constructor
  · simp only [State.busTransaction, if_pos hread, State.memRead, hnone]
  · simp only [State.busTransaction, if_pos hwrite, State.memWrite, hnone]

/-- A misaligned transaction, or one of size 1 or 2, reaches no register. -/
theorem busTarget_malformed {n off : Nat} {size : BusSize} (h : off % 4 ≠ 0 ∨ size ≠ .word) :
    busTarget n off size = none := by
  unfold busTarget
  rcases h with hoff | hsize
  · rw [if_neg hoff, ite_self]
  · rw [if_neg hsize]

/-- Settles O7: a malformed transaction reaches no register. -/
theorem malformedTransactionChangesNothing : Obligations.MalformedTransactionChangesNothing :=
  fun _ _ _ v hin hbad => State.busTransaction_error hin (busTarget_malformed hbad) v

/-- The map has nothing exactly at the reserved offsets, for any size of DATA. -/
theorem regAt_eq_none_iff {n off : Nat} (h4 : off % 4 = 0) : regAt n off = none ↔ ReservedOffset n off := by
  unfold regAt ReservedOffset
  simp only [keyBase, passBase, saltBase, dataBase, Config.keyBytes, Config.passMax, Config.saltMax]
  split_ifs with hfixed hkey hpass hsalt hdata
  · have hlen : fixedRegs.length = 14 := rfl
    rw [List.getElem?_eq_none_iff, hlen]
    omega
  all_goals
    simp only [false_iff, true_iff]
    omega

/-- Settles O8: the reserved offsets are the ones the map has nothing at, so a transaction there reaches no register. -/
theorem reservedOffsetsAnswerError : Obligations.ReservedOffsetsAnswerError := by
  intro s off v _ h4 hin
  have hiff : busTarget s.dataBytes off .word = none ↔ ReservedOffset s.dataBytes off := by
    rw [busTarget, if_pos rfl, if_pos h4, regAt_eq_none_iff h4]
  exact ⟨hiff, fun hres => State.busTransaction_error hin (hiff.mpr hres) v⟩

/-! Reads -/

/-- A host read of a register that exists gets the stored value, or a draw where the engine makes it one. -/
theorem State.busTransaction_read_offset {s : State} {r : Reg} (h : r.present s.dataBytes = true) :
    s.busTransaction (.read r.offset .word)
      = .next (if s.busy && r.drawnWhileBusy then s.nextDraw.respond .okay (some (Config.readDraw s.drawIndex))
          else s.respond .okay (some (s.readReg r))) := by
  have hin : (Transaction.read r.offset .word).off < Config.windowBytes s.dataBytes := Reg.offset_lt_windowBytes h
  simp only [State.busTransaction, if_pos hin, State.memRead, busTarget_offset h]

/-- Settles O10: while Idle no read is a draw. -/
theorem idleReadReturnsStoredValue : Obligations.IdleReadReturnsStoredValue := by
  intro s r _ hpresent hidle
  rw [State.busTransaction_read_offset hpresent, hidle]
  rfl

/-- The drawn registers are those of the first list of 20_memory.md R70. -/
theorem Reg.drawnWhileBusy_iff {r : Reg} :
    r.drawnWhileBusy = true
      ↔ r ∈ [Reg.keylen, Reg.outLen, Reg.padLen, Reg.progress] ∨ (∃ j, r = .key j) ∨ ∃ j, r = .data j := by
  cases r <;> simp [Reg.drawnWhileBusy]

/-- The registers that are not drawn are those of the second list of 20_memory.md R70. -/
theorem Reg.not_drawnWhileBusy_iff {r : Reg} :
    r.drawnWhileBusy = false
      ↔ r ∈ [Reg.id, Reg.version, Reg.ctrl, Reg.cmd, Reg.status, Reg.passLen, Reg.saltLen, Reg.iter, Reg.dklen,
          Reg.dataLen] ∨ (∃ j, r = .pass j) ∨ ∃ j, r = .salt j := by
  cases r <;> simp [Reg.drawnWhileBusy]

/-- Settles O17: the two lists are the registers that are drawn and those that are not. -/
theorem readsWhileBusy : Obligations.ReadsWhileBusy := by
  intro s r _ hpresent hbusy
  rw [State.busTransaction_read_offset hpresent, hbusy, ← Reg.drawnWhileBusy_iff, ← Reg.not_drawnWhileBusy_iff]
  refine ⟨fun hdrawn => ?_, fun hstored => ?_⟩
  · rw [hdrawn]
    rfl
  · rw [hstored]
    rfl

/-! Writes while Busy -/

/-- A plain-store write while Busy is dropped and sets WR_BUSY. -/
theorem State.writeBusy_plainStore (s : State) {r : Reg} (h : r.plainStore = true) (v : Word) :
    s.writeBusy r v = { s with wrBusy := true } := by
  cases r
  case id | version | cmd | status | outLen | padLen | progress => cases h
  all_goals rfl

/-- Settles O16: each write reaches its register, whose write rule while Busy gives the next state. -/
theorem writesWhileBusy : Obligations.WritesWhileBusy := by
  intro s v _ hbusy
  have hrule : ∀ r, s.writeReg r v = s.writeBusy r v := fun r => if_pos hbusy
  refine ⟨?cmd, ?status, fun r hro => ?readOnly, fun r hstore hpresent => ?plainStore⟩
  case cmd =>
    refine (State.busTransaction_write_offset (r := .cmd) rfl v).trans ?_
    rw [hrule]
    rfl
  case status =>
    refine (State.busTransaction_write_offset (r := .status) rfl v).trans ?_
    rw [hrule]
    rfl
  case readOnly =>
    rw [State.busTransaction_write_offset (Reg.present_of_readOnly hro _), s.writeReg_readOnly hro]
    rfl
  case plainStore =>
    rw [State.busTransaction_write_offset hpresent, hrule, s.writeBusy_plainStore hstore]
    rfl

/-! The words of PASS, SALT and DATA -/

/-- The registers that are words of the buffer memory: PASSj, SALTj and DATAj (10_state.md R44 to R46). -/
def Reg.isBufferWord : Reg → Bool
  | .pass _ | .salt _ | .data _ => true
  | _ => false

/-- A buffer register reads as the word of the buffer memory at its offset. -/
theorem State.readReg_bufferWord (s : State) {r : Reg} (h : r.isBufferWord = true) :
    s.readReg r = s.bufferWord r.offset := by
  cases r
  case pass j | salt j | data j => rfl
  all_goals cases h

/-- A write of a buffer register while Idle stores the word's bytes at the register's offset. -/
theorem State.writeIdle_bufferWord (s : State) {r : Reg} (h : r.isBufferWord = true) (v : Word) :
    s.writeIdle r v = s.storeBytes r.offset (le32bytes v) := by
  cases r
  case pass j | salt j | data j => rfl
  all_goals cases h

/-- A store in the buffer memory changes no register that is not a word of it. -/
theorem State.readReg_storeBytes (s : State) {r : Reg} (h : r.isBufferWord = false) (x : Nat) (bs : List Byte) :
    (s.storeBytes x bs).readReg r = s.readReg r := by
  cases r
  case pass j | salt j | data j => cases h
  all_goals rfl

/-- Two words with the same four lanes are equal. -/
theorem word_ext {v w : Word} (h : ∀ k : Fin 4, lane v k.val = lane w k.val) : v = w := by
  have h0 : lane v 0 = lane w 0 := h 0
  have h1 : lane v 1 = lane w 1 := h 1
  have h2 : lane v 2 = lane w 2 := h 2
  have h3 : lane v 3 = lane w 3 := h 3
  rw [← le32_lanes v, ← le32_lanes w, h0, h1, h2, h3]

/-- A word stored is the word read back. -/
theorem State.bufferWord_storeWord_same (s : State) (x : Nat) (v : Word) :
    (s.storeBytes x (le32bytes v)).bufferWord x = v :=
  word_ext fun k => (State.lane_bufferWord _ x k).trans (s.byteAt_storeWord_in x v k)

/-- A word apart from the stored one keeps its value. -/
theorem State.bufferWord_storeWord_other (s : State) {x y : Nat} (v : Word) (h : y + 4 ≤ x ∨ x + 4 ≤ y) :
    (s.storeBytes x (le32bytes v)).bufferWord y = s.bufferWord y := by
  simp (disch := omega) only [State.bufferWord, State.byteAt_storeWord_out]

/-- A register exists on every core whose DATA reaches past its offset. -/
theorem Reg.present_of_offset_lt {n : Nat} {r : Reg} (h : r.offset < n) : r.present n = true := by
  cases r
  case data j =>
    have hj : 4 * j < n := lt_of_le_of_lt (Nat.le_add_left _ _) h
    exact decide_eq_true hj
  all_goals rfl

/-- No two registers stand at one offset: on a core large enough for both, the map gives back either. -/
theorem Reg.offset_injective : Function.Injective Reg.offset := by
  intro r r' h
  have hr : regAt (r.offset + 1) r.offset = some r := regAt_offset (Reg.present_of_offset_lt (Nat.lt_succ_self _))
  have hr' : regAt (r'.offset + 1) r'.offset = some r' := regAt_offset (Reg.present_of_offset_lt (Nat.lt_succ_self _))
  rw [h, hr'] at hr
  exact (Option.some.inj hr).symm

/-- The words of two registers do not overlap. -/
theorem Reg.offset_apart {r r' : Reg} (h : r' ≠ r) : r'.offset + 4 ≤ r.offset ∨ r.offset + 4 ≤ r'.offset := by
  have hne : r'.offset ≠ r.offset := Reg.offset_injective.ne h
  have h4 := r.offset_mod_four
  have h4' := r'.offset_mod_four
  omega

/-! The words of KEY -/

/-- Lane k of a word written to KEYj is byte 4j+k of KEY. -/
theorem setKeyWord_getElem_same (key : Vector Byte 32) (j : Fin 8) (v : Word) (k : Fin 4) :
    (setKeyWord key j v)[4 * j.val + k.val] = lane v k.val := by
  have hdiv : (4 * j.val + k.val) / 4 = j.val := by omega
  have hmod : (4 * j.val + k.val) % 4 = k.val := by omega
  simp only [setKeyWord, Vector.getElem_ofFn, hdiv, hmod, if_true]

/-- A write of KEYj keeps every byte of KEY outside the word. -/
theorem setKeyWord_getElem_other (key : Vector Byte 32) {j : Fin 8} (v : Word) {i : Nat} (hi : i < 32)
    (h : i / 4 ≠ j.val) : (setKeyWord key j v)[i] = key[i] := by
  simp only [setKeyWord, Vector.getElem_ofFn, if_neg h]
  rfl

/-- A write of KEYj while Idle changes KEY only. -/
theorem State.writeIdle_key (s : State) (j : Fin 8) (v : Word) :
    s.writeIdle (.key j) v = { s with key := setKeyWord s.key j v } := rfl

/-- No register but the words of KEY reads KEY. -/
theorem State.readReg_withKey (s : State) (key : Vector Byte 32) {r : Reg} (h : ∀ j, r ≠ .key j) :
    State.readReg { s with key := key } r = s.readReg r := by
  cases r
  case key j => exact absurd rfl (h j)
  all_goals rfl

/-- KEYj reads back the word written to it. -/
theorem State.keyWord_setKeyWord_same (s : State) (j : Fin 8) (v : Word) :
    State.keyWord { s with key := setKeyWord s.key j v } j = v :=
  word_ext fun k => (State.lane_keyWord _ j k).trans (setKeyWord_getElem_same s.key j v k)

/-- Another word of KEY keeps its value. -/
theorem State.keyWord_setKeyWord_other (s : State) {j j' : Fin 8} (h : j' ≠ j) (v : Word) :
    State.keyWord { s with key := setKeyWord s.key j v } j' = s.keyWord j' := by
  have hval : j'.val ≠ j.val := Fin.val_ne_of_ne h
  simp (disch := omega) only [State.keyWord, setKeyWord_getElem_other]

/-! Byte lanes and stores while Idle -/

/-- Settles O13: the lanes of a word of KEY or of the buffer memory, read and written, are laws of `setKeyWord` and
`State.storeBytes`. -/
theorem bufferWordsAreLittleEndian : Obligations.BufferWordsAreLittleEndian := by
  intro s v k hidle
  have hrule : ∀ r, s.writeReg r v = s.writeIdle r v := fun r => if_neg (by simp [hidle])
  refine ⟨fun j => ?key, fun r base hr => ?buffer⟩
  case key =>
    simp only [hrule]
    exact ⟨s.lane_keyWord j k, setKeyWord_getElem_same s.key j v k,
      fun i hi => setKeyWord_getElem_other s.key v i.isLt hi⟩
  case buffer =>
    have hword : r.isBufferWord = true ∧ base = r.offset := by
      rcases hr with ⟨j, ⟨rfl, rfl⟩ | ⟨rfl, rfl⟩⟩ | ⟨j, rfl, rfl⟩ <;> exact ⟨rfl, rfl⟩
    obtain ⟨hbuffer, rfl⟩ := hword
    rw [hrule, s.readReg_bufferWord hbuffer, s.writeIdle_bufferWord hbuffer]
    exact ⟨s.lane_bufferWord r.offset k, s.byteAt_storeWord_in r.offset v k, fun _ hx => s.byteAt_storeWord_out v hx⟩

/-- The low n bits of a word, zero-extended, are the word masked with n ones. -/
theorem setWidth_extractLsb'_eq_and (v : Word) {n : Nat} {mask : Word} (hmask : mask.toNat = 2 ^ n - 1) :
    (v.extractLsb' 0 n).setWidth 32 = v &&& mask := by
  have hlt : v.toNat % 2 ^ n < 2 ^ 32 := (Nat.mod_le _ _).trans_lt v.isLt
  apply BitVec.eq_of_toNat_eq
  rw [BitVec.toNat_and, hmask, Nat.and_two_pow_sub_one_eq_mod, BitVec.toNat_setWidth, BitVec.extractLsb'_toNat,
    Nat.shiftRight_zero, Nat.mod_eq_of_lt hlt]

/-- A plain-store register reads back the defined bits of the word written to it. -/
theorem State.readReg_writeIdle_same (s : State) {r : Reg} (h : r.plainStore = true) (v : Word) :
    (s.writeIdle r v).readReg r = v &&& r.storedBits := by
  have hall : v &&& 0xFFFFFFFF#32 = v := BitVec.and_allOnes
  cases r
  case ctrl | passLen | saltLen | dklen | keylen => exact setWidth_extractLsb'_eq_and v rfl
  case iter | dataLen => exact hall.symm
  case key j => exact (s.keyWord_setKeyWord_same j v).trans hall.symm
  case pass j | salt j | data j => exact (s.bufferWord_storeWord_same _ v).trans hall.symm
  all_goals cases h

/-- A plain-store write while Idle changes what no other register reads as. -/
theorem State.readReg_writeIdle_other (s : State) {r r' : Reg} (h : r.plainStore = true) (hne : r' ≠ r) (v : Word) :
    (s.writeIdle r v).readReg r' = s.readReg r' := by
  cases hbuf : r.isBufferWord
  case true =>
    rw [s.writeIdle_bufferWord hbuf]
    cases hbuf' : r'.isBufferWord
    case false => exact s.readReg_storeBytes hbuf' _ _
    case true =>
      rw [State.readReg_bufferWord _ hbuf', State.readReg_bufferWord _ hbuf']
      exact s.bufferWord_storeWord_other v (Reg.offset_apart hne)
  case false =>
    cases r
    case key j =>
      rw [s.writeIdle_key]
      by_cases hkey : ∃ j', r' = .key j'
      · obtain ⟨j', rfl⟩ := hkey
        exact s.keyWord_setKeyWord_other (fun hj => hne (congrArg Reg.key hj)) v
      · exact s.readReg_withKey _ (not_exists.mp hkey)
    case ctrl | passLen | saltLen | iter | dklen | keylen | dataLen =>
      cases r' <;> try rfl
      exact absurd rfl hne
    case pass | salt | data => cases hbuf
    all_goals cases h

/-- A plain-store write leaves PCMD as it is. -/
theorem State.writeIdle_plainStore_pcmd (s : State) {r : Reg} (h : r.plainStore = true) (v : Word) :
    (s.writeIdle r v).pcmd = s.pcmd := by
  cases r
  case key j => rw [s.writeIdle_key]
  case id | version | cmd | status | outLen | padLen | progress => cases h
  all_goals rfl

/-- No write changes BASE. -/
theorem State.writeReg_base (s : State) (r : Reg) (v : Word) : (s.writeReg r v).base = s.base := by
  unfold State.writeReg
  split <;> cases r <;> simp [State.writeIdle, State.writeBusy]

/-- No register reads the port's answer. -/
@[simp] theorem State.readReg_respond (s : State) (resp : Resp) (d : Option Word) (r : Reg) :
    (s.respond resp d).readReg r = s.readReg r := by
  cases r <;> rfl

/-- Settles O14: what the registers read as after the write are the two laws of `State.writeIdle`, and the rest of the state
is `State.writeReg_own`. -/
theorem idleWriteStores : Obligations.IdleWriteStores := by
  intro s r v _ hpresent hidle hstore
  have hrule : s.writeReg r v = s.writeIdle r v := if_neg (by simp [hidle])
  obtain ⟨hdata, hpending, hdraw, hreset, -, -, -⟩ := s.writeReg_own r v
  refine ⟨(s.writeReg r v).respond .okay none, State.busTransaction_write_offset hpresent v, rfl, ?same, ?other, hpending,
    hdata, ?base, hdraw, hreset, ?idle⟩
  case same => exact (State.readReg_respond _ _ _ r).trans (hrule ▸ s.readReg_writeIdle_same hstore v)
  case other =>
    intro r' hne
    exact (State.readReg_respond _ _ _ r').trans (hrule ▸ s.readReg_writeIdle_other hstore hne v)
  case base => exact s.writeReg_base r v
  case idle =>
    have hnone : s.pcmd = none := State.busy_eq_false_iff.mp hidle
    exact (congrArg State.pcmd hrule).trans ((s.writeIdle_plainStore_pcmd hstore v).trans hnone)

/-! A running command -/

/-- What host inputs can change while the engine is Busy: the write-1-to-clear flags of STATUS, and the model's own fields
for the port, the queue and the draws. -/
structure HostSide where
  done : Bool
  cmdOvf : Bool
  wrBusy : Bool
  response : Option BusResponse
  pending : List InputEvent
  drawIndex : Nat

/-- The state with its host side replaced. -/
def State.withHostSide (s : State) (h : HostSide) : State :=
  { s with
    done := h.done
    cmdOvf := h.cmdOvf
    wrBusy := h.wrBusy
    response := h.response
    pending := h.pending
    drawIndex := h.drawIndex }

/-- The host side of a state. -/
def State.hostSide (s : State) : HostSide :=
  ⟨s.done, s.cmdOvf, s.wrBusy, s.response, s.pending, s.drawIndex⟩

theorem State.withHostSide_hostSide (s : State) : s.withHostSide s.hostSide = s := rfl

theorem State.withHostSide_withHostSide (s : State) (h h' : HostSide) :
    (s.withHostSide h).withHostSide h' = s.withHostSide h' := rfl

/-- A transaction while Busy changes the host side only, and not the queue. -/
theorem State.busTransaction_busy {s t : State} {x : Transaction} (hbusy : s.busy = true)
    (h : s.busTransaction x = .next t) : ∃ hs : HostSide, t = s.withHostSide hs ∧ hs.pending = s.pending := by
  rcases State.busTransaction_next h with ⟨resp, d, rfl⟩ | ⟨d, rfl⟩ | ⟨off, r, v, -, -, rfl⟩
  · exact ⟨{ s.hostSide with response := some ⟨resp, d⟩ }, rfl, rfl⟩
  · exact ⟨{ s.hostSide with response := some ⟨.okay, d⟩, drawIndex := s.drawIndex + 1 }, rfl, rfl⟩
  · obtain ⟨done, cmdOvf, wrBusy, hwrite, -⟩ := State.writeReg_busy hbusy r v
    exact ⟨{ s.hostSide with done, cmdOvf, wrBusy, response := some ⟨.okay, none⟩ }, by rw [hwrite]; rfl, rfl⟩

/-- The transaction of an input that a host can present fits the port. -/
theorem State.portTransaction_off_lt {s : State} {e : InputEvent} {x : Transaction}
    (hpres : e.presentable s.dataBytes = true) (h : s.portTransaction e = some x) :
    x.off < Config.windowBytes s.dataBytes := by
  cases e with
  | host y =>
    cases h
    exact of_decide_eq_true hpres
  | access a =>
    obtain ⟨hin, rfl⟩ : s.inWindow a.addr = true ∧ a.toPort s.base = x := by
      simpa [State.portTransaction] using h
    exact (State.inWindow_atBase hin).1
  | engine => cases h
  | reset => cases h

/-- A host input taken while Busy is answered, and changes the host side only. -/
theorem State.takeInput_busy {s : State} {e : InputEvent} (hbusy : s.busy = true) (hhost : e.isHost = true)
    (hpres : e.presentable s.dataBytes = true) :
    ∃ hs : HostSide, s.takeInput e = .next (s.withHostSide hs) ∧ hs.pending = s.pending := by
  rcases State.takeInput_host (s := s) hhost with ⟨x, hport, htake⟩ | htake
  · obtain ⟨t, ht⟩ := s.busTransaction_ok (State.portTransaction_off_lt hpres hport)
    obtain ⟨hs, rfl, hpending⟩ := State.busTransaction_busy hbusy ht
    exact ⟨hs, htake.trans ht, hpending⟩
  · exact ⟨s.hostSide, htake.trans (congrArg _ s.withHostSide_hostSide.symm), rfl⟩

/-- A run over host inputs while Busy takes each of them, and changes the host side only. -/
theorem run_busy {s : State} {es rest : List InputEvent} (hbusy : s.busy = true) (hpending : s.pending = es ++ rest)
    (hes : ∀ e ∈ es, e.isHost = true ∧ e.presentable s.dataBytes = true) :
    ∃ hs : HostSide, run es.length s = .next (s.withHostSide hs) ∧ hs.pending = rest := by
  induction es generalizing s with
  | nil => exact ⟨s.hostSide, (run_zero s).trans (congrArg _ s.withHostSide_hostSide.symm), hpending⟩
  | cons e es ih =>
    obtain ⟨hhost, hpres⟩ := hes e List.mem_cons_self
    obtain ⟨hs, htake, hqueue⟩ :=
      State.takeInput_busy (s := { s with pending := es ++ rest }) hbusy hhost hpres
    have hstep : step s = .next (s.withHostSide hs) := (step_of_cons hpending).trans htake
    obtain ⟨hs', hrun, hrest⟩ :=
      ih (s := s.withHostSide hs) hbusy hqueue fun e' he' => hes e' (List.mem_cons_of_mem e he')
    rw [s.withHostSide_withHostSide] at hrun
    exact ⟨hs', (run_next es.length hstep).trans hrun, hrest⟩

/-- No command reads the host side: with it replaced, a command completes with the same code, and leaves the same state but
for the host side. -/
theorem exec_withHostSide (i : Instr) (s : State) (hs : HostSide) :
    ∃ u c, exec i s = .next (State.complete u c) ∧ exec i (s.withHostSide hs) = .next ((u.withHostSide hs).complete c) := by
  cases i with
  | derive =>
    cases hok : s.deriveOperandsOk
    · exact ⟨s, _, execDerive_bad hok, execDerive_bad hok⟩
    · exact ⟨s.writeDerivedKey, _, execDerive_ok hok, execDerive_ok hok⟩
  | decrypt =>
    cases hk : s.keyLengthOk
    · exact ⟨s.clearLengths, _, execDecrypt_badKey hk, execDecrypt_badKey hk⟩
    · cases hd : s.dataLengthOk
      · exact ⟨s.clearLengths, _, execDecrypt_badLength hk hd, execDecrypt_badLength hk hd⟩
      · exact ⟨s.writePlaintext, _, execDecrypt_ok hk hd, execDecrypt_ok hk hd⟩
  | decryptFinal =>
    cases hk : s.keyLengthOk
    · exact ⟨s.clearLengths, _, execDecryptFinal_badKey hk, execDecryptFinal_badKey hk⟩
    · cases hd : s.dataLengthOk
      · exact ⟨s.clearLengths, _, execDecryptFinal_badLength hk hd, execDecryptFinal_badLength hk hd⟩
      · exact ⟨_, _, execDecryptFinal_ok hk hd, execDecryptFinal_ok hk hd⟩
  | unpad =>
    cases hd : s.dataLengthOk
    · exact ⟨s.clearLengths, _, execUnpad_badLength hd, execUnpad_badLength hd⟩
    · exact ⟨_, _, execUnpad_ok hd, execUnpad_ok hd⟩
  | illegal v => exact ⟨s, _, rfl, rfl⟩

/-- Settles O26: the host inputs change the host side only, which holds no input of a command, which no command reads, and
whose DONE the completion sets anyway. -/
theorem runningCommandCannotBeChanged : Obligations.RunningCommandCannotBeChanged := by
  intro s es rest hbusy hpending hes
  obtain ⟨hs, hrun, hrest⟩ := run_busy hbusy hpending hes
  refine ⟨s.withHostSide hs, hrun, ?inputs, hrest, fun i => ?results⟩
  case inputs => exact ⟨rfl, rfl, rfl, rfl, rfl, rfl, rfl, rfl, rfl, rfl, fun _ => rfl⟩
  case results =>
    obtain ⟨u, c, hbefore, hafter⟩ := exec_withHostSide i s hs
    exact ⟨_, _, hbefore, hafter, rfl, rfl, rfl, rfl, rfl, rfl, rfl, rfl, fun _ => rfl⟩

end Sys2Proof.Machine
end

section
/-! PROOFS. The encoding's statements: command words (30_encoding.md R81 to R83) and their bytes, and the expansion of LOAD
(R88). -/

namespace Sys2Proof.Machine

open Sys2Proof

/-! Command words -/

/-- A word is its RSV above its OP. -/
theorem rsvField_append_opField (v : Word) : rsvField v ++ opField v = v :=
  (BitVec.extractLsb'_append_extractLsb'_eq_extractLsb' rfl).trans BitVec.extractLsb'_eq_self

/-- Two words with the same fields are equal. -/
theorem word_ext_fields {v w : Word} (hrsv : rsvField v = rsvField w) (hop : opField v = opField w) : v = w := by
  rw [← rsvField_append_opField v, ← rsvField_append_opField w, hrsv, hop]

/-- A fact holds of every command word when it holds of the four. -/
theorem forall_commandWords {p : Word → Prop} :
    (∀ w ∈ commandWords, p w) ↔ p 0x00000001 ∧ p 0x00000002 ∧ p 0x00000003 ∧ p 0x00000004 := by
  simp [commandWords]

/-- The RSV of a command word is 0. -/
theorem rsvField_of_mem_commandWords : ∀ w ∈ commandWords, rsvField w = 0 :=
  forall_commandWords.mpr ⟨rfl, rfl, rfl, rfl⟩

/-- A word that is none of the four command words decodes to ILLEGAL. -/
theorem decode_of_notMem {v : Word} (h : v ∉ commandWords) : decode v = .illegal v := by
  by_cases hrsv : rsvField v = 0
  · have hop : ∀ w ∈ commandWords, opField v ≠ opField w := fun w hw heq =>
      h (word_ext_fields (hrsv.trans (rsvField_of_mem_commandWords w hw).symm) heq ▸ hw)
    obtain ⟨h1, h2, h3, h4⟩ : opField v ≠ 0x01 ∧ opField v ≠ 0x02 ∧ opField v ≠ 0x03 ∧ opField v ≠ 0x04 :=
      (forall_commandWords (p := fun w => opField v ≠ opField w)).mp hop
    rw [decode, if_neg (not_not.mpr hrsv), if_neg h1, if_neg h2, if_neg h3, if_neg h4]
  · exact if_pos hrsv

/-- An ILLEGAL term is well-formed when its word spells no command. -/
theorem wellFormed_illegal_iff {v : Word} : (Instr.illegal v).wellFormed = true ↔ v ∉ commandWords := by
  simp [Instr.wellFormed]

/-- What a word decodes to is well-formed, and its encoding is the word. -/
theorem encode_decode (v : Word) : (decode v).wellFormed = true ∧ encode (decode v) = v := by
  by_cases hmem : v ∈ commandWords
  · revert v
    exact forall_commandWords.mpr ⟨⟨rfl, rfl⟩, ⟨rfl, rfl⟩, ⟨rfl, rfl⟩, ⟨rfl, rfl⟩⟩
  · rw [decode_of_notMem hmem]
    exact ⟨wellFormed_illegal_iff.mpr hmem, rfl⟩

/-- Settles O1: a command's word decodes to it by evaluation, any other word to the ILLEGAL term that holds it. -/
theorem decodeEncodeInverse : Obligations.DecodeEncodeInverse := by
  refine ⟨fun i hwf => ?_, encode_decode⟩
  cases i with
  | illegal v => exact decode_of_notMem (wellFormed_illegal_iff.mp hwf)
  | derive | decrypt | decryptFinal | unpad => rfl

/-- A word decodes to a command exactly when it is one of the four command words. -/
theorem decode_ne_illegal_iff {v : Word} : (∀ u, decode v ≠ .illegal u) ↔ v ∈ commandWords := by
  constructor
  · intro h
    by_contra hmem
    exact h v (decode_of_notMem hmem)
  · intro hmem u hu
    have hwf : u ∉ commandWords := wellFormed_illegal_iff.mp (hu ▸ (encode_decode v).1)
    have huv : u = v := (congrArg encode hu).symm.trans (encode_decode v).2
    exact hwf (huv ▸ hmem)

/-- Settles O2: a word with RSV = 0 and the OP of a command is that command's word; any other is no command word. -/
theorem decodeFollowsTheOpcodeMap : Obligations.DecodeFollowsTheOpcodeMap := by
  intro v
  have hcommand : ∀ w : Word, rsvField w = 0 → rsvField v = 0 → opField v = opField w → decode v = decode w :=
    fun w hw hrsv hop => congrArg decode (word_ext_fields (hrsv.trans hw.symm) hop)
  refine ⟨fun hrsv => if_pos hrsv, hcommand 0x00000001 rfl, hcommand 0x00000002 rfl, hcommand 0x00000003 rfl,
    hcommand 0x00000004 rfl, fun _ hop => decode_of_notMem fun hmem => hop ?_, decode_ne_illegal_iff⟩
  have hall : ∀ w ∈ commandWords, opField w ∈ [0x01#8, 0x02#8, 0x03#8, 0x04#8] :=
    forall_commandWords.mpr (by decide)
  exact hall v hmem

/-! Command words as bytes -/

/-- Settles O3: each string is evaluated to its word, and the word decoded. -/
theorem writtenOutWordsDecode : Obligations.WrittenOutWordsDecode :=
  ⟨rfl, rfl, rfl, rfl, rfl, rfl, rfl, rfl, rfl⟩

/-- The bytes of a word made of four bytes are those bytes. -/
theorem le32bytes_le32 (b0 b1 b2 b3 : Byte) : le32bytes (le32 b0 b1 b2 b3) = [b0, b1, b2, b3] := by
  have hlane := lane_le32 b0 b1 b2 b3
  simp only [le32bytes, List.cons.injEq, and_true]
  exact ⟨hlane 0, hlane 1, hlane 2, hlane 3⟩

/-- The bytes of an instruction are those of its word, lowest lane first. -/
theorem encodeBytes_eq_le32bytes (i : Instr) : encodeBytes i = le32bytes (encode i) := rfl

/-- A byte string that is not four bytes long is no command word. -/
theorem decodeBytes_of_length_ne {bs : List Byte} (h : bs.length ≠ 4) : decodeBytes bs = .error .notOneWord := by
  unfold decodeBytes
  split
  · exact absurd rfl h
  · rfl

/-- Settles O4: four bytes decode to what their word decodes to, whose encoding is that word. -/
theorem byteStringsDecodeWhole : Obligations.ByteStringsDecodeWhole := by
  refine fun bs => ⟨fun hlen => ?_, decodeBytes_of_length_ne⟩
  obtain ⟨b0, b1, b2, b3, rfl⟩ := List.length_eq_four.mp hlen
  refine ⟨decode (le32 b0 b1 b2 b3), rfl, ?_⟩
  rw [encodeBytes_eq_le32bytes, (encode_decode _).2, le32bytes_le32]

/-! The registers of a buffer -/

/-- Word j of a buffer, as a register of the map. -/
def Buffer.reg : Buffer → Nat → Reg
  | .key, j => .key (Fin.ofNat 8 j)
  | .pass, j => .pass (Fin.ofNat 16 j)
  | .salt, j => .salt (Fin.ofNat 16 j)
  | .data, j => .data j

/-- A word inside its buffer stands at its place from the buffer's first byte on. -/
theorem Buffer.offset_reg {x : Buffer} {n j : Nat} (h : 4 * j < x.size n) : (x.reg j).offset = x.base + 4 * j := by
  cases x with
  | data => rfl
  | key | pass | salt =>
    simp only [Buffer.size] at h
    simp only [Buffer.reg, Buffer.base, Reg.offset, Fin.val_ofNat]
    omega

/-- A word inside its buffer exists. -/
theorem Buffer.present_reg {x : Buffer} {n j : Nat} (h : 4 * j < x.size n) : (x.reg j).present n = true := by
  cases x with
  | data => exact decide_eq_true h
  | key | pass | salt => rfl

/-- A host write of a word of a buffer is a plain store. -/
theorem Buffer.plainStore_reg (x : Buffer) (j : Nat) : (x.reg j).plainStore = true := by
  cases x <;> rfl

/-- It stores all 32 bits. -/
theorem Buffer.storedBits_reg (x : Buffer) (j : Nat) : (x.reg j).storedBits = 0xFFFFFFFF := by
  cases x <;> rfl

/-- Words of different buffers are different registers. -/
theorem Buffer.reg_ne_of_buffer_ne {x y : Buffer} (h : y ≠ x) (i j : Nat) : y.reg i ≠ x.reg j := by
  cases x <;> cases y
  case key.key | pass.pass | salt.salt | data.data => exact absurd rfl h
  all_goals exact nofun

/-- Different words inside one buffer are different registers. -/
theorem Buffer.reg_ne_of_index_ne {x : Buffer} {n i j : Nat} (hi : 4 * i < x.size n) (hj : 4 * j < x.size n)
    (h : i ≠ j) : x.reg i ≠ x.reg j := by
  intro heq
  have hoff : x.base + 4 * i = x.base + 4 * j := by rw [← Buffer.offset_reg hi, ← Buffer.offset_reg hj, heq]
  omega

/-- The size of every buffer is a whole number of words. -/
theorem Buffer.size_mod_four (x : Buffer) {n : Nat} (h : Config.legalDataBytes n) : x.size n % 4 = 0 := by
  cases x with
  | data =>
    have h16 : n % 16 = 0 := h.1
    simp only [Buffer.size]
    omega
  | key | pass | salt => simp only [Buffer.size]

/-- Byte i of a buffer is lane i mod 4 of its word i / 4. -/
theorem State.bufferByte_eq_lane (s : State) {x : Buffer} {n i : Nat} (h : i < x.size n) :
    s.bufferByte x i = lane (s.readReg (x.reg (i / 4))) (i % 4) := by
  have hword : 4 * (i / 4) < x.size n := by omega
  have hi : 4 * (i / 4) + i % 4 = i := by omega
  have hoff := Buffer.offset_reg hword
  have hk : i % 4 < 4 := by omega
  cases x with
  | key =>
    have h32 : i < 32 := h
    have hkey : 4 * (i / 4 % 8) + i % 4 = i := by omega
    refine Eq.trans ?_ (s.lane_keyWord (Fin.ofNat 8 (i / 4)) ⟨i % 4, hk⟩).symm
    simp [State.bufferByte, h32, hkey]
  | pass | salt | data =>
    rw [State.readReg_bufferWord _ rfl, hoff, s.lane_bufferWord _ ⟨i % 4, hk⟩, Nat.add_assoc, hi]
    rfl

/-- A byte of a buffer is kept when its word is. -/
theorem State.bufferByte_congr {s t : State} {x : Buffer} {n i : Nat} (h : i < x.size n)
    (hreg : t.readReg (x.reg (i / 4)) = s.readReg (x.reg (i / 4))) : t.bufferByte x i = s.bufferByte x i := by
  rw [t.bufferByte_eq_lane h, s.bufferByte_eq_lane h, hreg]

/-! LOAD -/

/-- Word j of the bytes of a LOAD, zero-padded (30_encoding.md R88). -/
def loadWord (bytes : List Byte) (j : Nat) : Word :=
  le32 (bytes.getD (4 * j) 0) (bytes.getD (4 * j + 1) 0) (bytes.getD (4 * j + 2) 0) (bytes.getD (4 * j + 3) 0)

/-- Lane i mod 4 of word i / 4 is byte i, 0 past the end of the bytes. -/
theorem lane_loadWord (bytes : List Byte) (i : Nat) : lane (loadWord bytes (i / 4)) (i % 4) = bytes.getD i 0 := by
  have hlane : ∀ (j : Nat) (k : Fin 4), lane (loadWord bytes j) k.val = bytes.getD (4 * j + k.val) 0 := fun j k => by
    rw [loadWord, lane_le32]
    fin_cases k <;> rfl
  exact (hlane (i / 4) ⟨i % 4, Nat.mod_lt _ (by decide)⟩).trans (by rw [Nat.div_add_mod])

/-- The inputs that write the first k words of a buffer, in order. -/
def wordWrites (x : Buffer) (w : Nat → Word) (k : Nat) : List InputEvent :=
  (List.range k).map fun j => writeWord (x.base + 4 * j) (w j)

/-- A LOAD writes the words of its bytes. -/
theorem loadWrites_eq_wordWrites (x : Buffer) (bytes : List Byte) :
    loadWrites x.base bytes = wordWrites x (loadWord bytes) ((bytes.length + 3) / 4) := rfl

theorem wordWrites_succ (x : Buffer) (w : Nat → Word) (k : Nat) :
    wordWrites x w (k + 1) = wordWrites x w k ++ [writeWord (x.base + 4 * k) (w k)] := by
  simp [wordWrites, List.range_succ]

/-- No register reads the queue. -/
theorem State.readReg_withPending (s : State) (es : List InputEvent) (r : Reg) :
    State.readReg { s with pending := es } r = s.readReg r := by
  cases r <;> rfl

/-- One write of a word of a buffer while Idle: the word reads back, and no other register changes. -/
theorem step_writeWord {s : State} {x : Buffer} {j : Nat} {v : Word} {rest : List InputEvent}
    (hlegal : Config.legalDataBytes s.dataBytes) (hidle : s.busy = false) (hj : 4 * j < x.size s.dataBytes)
    (hpending : s.pending = writeWord (x.base + 4 * j) v :: rest) :
    ∃ t, step s = .next t ∧ t.pending = rest ∧ t.busy = false ∧ t.dataBytes = s.dataBytes
      ∧ t.readReg (x.reg j) = v ∧ ∀ r, r ≠ x.reg j → t.readReg r = s.readReg r := by
  obtain ⟨t, hwrite, -, hsame, hother, hrest, hdata, -, -, -, hpcmd⟩ :=
    idleWriteStores { s with pending := rest } (x.reg j) v hlegal (Buffer.present_reg hj) hidle (x.plainStore_reg j)
  refine ⟨t, ?step, hrest, State.busy_eq_false_iff.mpr hpcmd, hdata, ?same,
    fun r hr => (hother r hr).trans (s.readReg_withPending rest r)⟩
  case step =>
    rw [step_of_cons hpending, writeWord, ← Buffer.offset_reg hj]
    exact hwrite
  case same =>
    rw [hsame, x.storedBits_reg]
    exact BitVec.and_allOnes

/-- A run over the writes of the first k words of a buffer while Idle: those words read back, and no other register
changes. -/
theorem run_wordWrites {s : State} {x : Buffer} {w : Nat → Word} {k : Nat} {rest : List InputEvent}
    (hlegal : Config.legalDataBytes s.dataBytes) (hidle : s.busy = false) (hk : 4 * k ≤ x.size s.dataBytes)
    (hpending : s.pending = wordWrites x w k ++ rest) :
    ∃ t, run k s = .next t ∧ t.pending = rest ∧ t.busy = false ∧ t.dataBytes = s.dataBytes
      ∧ (∀ j < k, t.readReg (x.reg j) = w j) ∧ ∀ r, (∀ j < k, r ≠ x.reg j) → t.readReg r = s.readReg r := by
  induction k generalizing rest with
  | zero => exact ⟨s, run_zero s, hpending, hidle, rfl, nofun, fun _ _ => rfl⟩
  | succ k ih =>
    obtain ⟨t, hrun, hqueue, htidle, htdata, hwritten, hkept⟩ :=
      ih (rest := writeWord (x.base + 4 * k) (w k) :: rest) (by omega) (by simpa [wordWrites_succ] using hpending)
    have hin : 4 * k < x.size t.dataBytes := by rw [htdata]; omega
    obtain ⟨u, hstep, hrest, huidle, hudata, hsame, hother⟩ := step_writeWord (htdata ▸ hlegal) htidle hin hqueue
    refine ⟨u, ?run, hrest, huidle, hudata.trans htdata, fun j hj => ?written, fun r hr => ?kept⟩
    case run => rw [run_add 1 hrun, run_next 0 hstep, run_zero]
    case written =>
      rcases Nat.lt_succ_iff_lt_or_eq.mp hj with hlt | rfl
      · have hne : x.reg j ≠ x.reg k := Buffer.reg_ne_of_index_ne (n := s.dataBytes) (by omega) (by omega) hlt.ne
        exact (hother _ hne).trans (hwritten j hlt)
      · exact hsame
    case kept => exact (hother r (hr k k.lt_succ_self)).trans (hkept r fun j hj => hr j (Nat.lt_succ_of_lt hj))

/-- Settles O32: a byte of a buffer is a lane of one of its words, and the run writes the words of the LOAD and no other
register. -/
theorem loadFillsTheBuffer : Obligations.LoadFillsTheBuffer := by
  intro s x bytes rest hlegal hidle hlen hpending
  rw [loadWrites_eq_wordWrites] at hpending
  generalize hk : (bytes.length + 3) / 4 = k at hpending ⊢
  have hfits : 4 * k ≤ x.size s.dataBytes := by
    have hwhole := x.size_mod_four hlegal
    omega
  obtain ⟨t, hrun, hrest, htidle, -, hwritten, hkept⟩ := run_wordWrites hlegal hidle hfits hpending
  refine ⟨t, hrun, hrest, htidle, fun i hi => ?filled, fun i hlow hi => ?beyond, fun y i hy hi => ?others⟩
  case filled =>
    rw [t.bufferByte_eq_lane (n := s.dataBytes) (by omega), hwritten _ (by omega), lane_loadWord]
  case beyond =>
    refine State.bufferByte_congr hi (hkept _ fun j hj => ?_)
    exact Buffer.reg_ne_of_index_ne (n := s.dataBytes) (by omega) (by omega) (by omega)
  case others => exact State.bufferByte_congr hi (hkept _ fun j _ => Buffer.reg_ne_of_buffer_ne hy _ j)

end Sys2Proof.Machine
end

section
/-! PROOFS. The KeyDeriver's statements: SHA-1 padding (40_key_deriver.md R102), the lengths of the digests (R101, R108),
PBKDF2 (R110, R116, R118) and the command DERIVE (R112 to R119). -/

namespace Sys2Proof.Machine

open Sys2Proof

/-! SHA-1 padding -/

/-- The zero bytes leave room in the last block for the 8 bytes of the length (40_key_deriver.md R102). -/
theorem sha1ZeroCount_fills (n : Nat) : (n + 1 + sha1ZeroCount n) % 64 = 56 := by
  unfold sha1ZeroCount
  omega

theorem sha1ZeroCount_least {n j : Nat} (h : (n + 1 + j) % 64 = 56) : sha1ZeroCount n ≤ j := by
  unfold sha1ZeroCount
  omega

theorem length_sha1Pad (m : List Byte) :
    (sha1Pad m).length = m.length + 1 + sha1ZeroCount m.length + 8 := by
  simp only [sha1Pad, List.length_append, List.length_singleton, length_bytesOf, length_be64bytes]

/-- Settles O41: the number of zero bytes is `sha1ZeroCount`. -/
theorem sha1PaddingFillsBlocks : Obligations.Sha1PaddingFillsBlocks := by
  intro m
  refine ⟨sha1ZeroCount m.length, rfl, sha1ZeroCount_fills _, fun _ => sha1ZeroCount_least, ?whole, ?one, ?two⟩ <;>
    rw [length_sha1Pad]
  case whole =>
    have hfills := sha1ZeroCount_fills m.length
    omega
  case one =>
    intro h55
    rw [h55]
    rfl
  case two =>
    intro h56
    rw [h56]
    rfl

/-! The blocks of PBKDF2 -/

/-- l blocks are enough exactly from ceil(dkLen / 20) on (40_key_deriver.md R110). -/
theorem pbkdf2BlockCount_le_iff {d n : Nat} : pbkdf2BlockCount d ≤ n ↔ d ≤ 20 * n := by
  simp only [pbkdf2BlockCount, Config.hashBytes]
  omega

theorem le_pbkdf2BlockCount (d : Nat) : d ≤ 20 * pbkdf2BlockCount d := pbkdf2BlockCount_le_iff.mp le_rfl

/-- DK is the start of any number of blocks that are enough: a block does not depend on dkLen (40_key_deriver.md R116). -/
theorem pbkdf2_eq_take (p salt : List Byte) (c : Nat) {d n : Nat} (h : d ≤ 20 * n) :
    pbkdf2 p salt c d = ((List.range n).flatMap fun i => pbkdf2Block p salt c (i + 1)).take d := by
  obtain ⟨k, rfl⟩ := Nat.exists_eq_add_of_le (pbkdf2BlockCount_le_iff.mpr h)
  have henough : d ≤ ((List.range (pbkdf2BlockCount d)).flatMap fun i => pbkdf2Block p salt c (i + 1)).length :=
    (le_pbkdf2BlockCount d).trans_eq (length_pbkdf2Blocks p salt c _).symm
  rw [List.range_add, List.flatMap_append, List.take_append_of_le_length henough, pbkdf2]

theorem length_pbkdf2 (p salt : List Byte) (c d : Nat) : (pbkdf2 p salt c d).length = d := by
  rw [pbkdf2, List.length_take, length_pbkdf2Blocks, Nat.min_eq_left (le_pbkdf2BlockCount d)]

/-- Settles O42. PBKDF2 gives dkLen bytes because ceil(dkLen / 20) blocks of 20 bytes hold as many. -/
theorem digestLengths : Obligations.DigestLengths :=
  ⟨length_sha1, length_hmacSha1, fun p salt c d _ => length_pbkdf2 p salt c d⟩

/-- Settles O38: both derived keys are taken from the same blocks, one of them for 20 bytes and two for 21. -/
theorem derivedKeyPrefix : Obligations.DerivedKeyPrefix := by
  intro p salt c _
  have hlen (i : Nat) : (pbkdf2Block p salt c i).length = 20 := length_pbkdf2Block p salt c i
  refine ⟨fun d e hde => ?shorter, rfl, ?one, rfl, ?two⟩
  case shorter =>
    have henough : e ≤ 20 * pbkdf2BlockCount e := le_pbkdf2BlockCount e
    rw [pbkdf2_eq_take p salt c henough, pbkdf2_eq_take p salt c (hde.trans henough), List.take_take,
      Nat.min_eq_left hde]
  case one => simp [pbkdf2_eq_take p salt c (n := 1), hlen]
  case two => simp [pbkdf2_eq_take p salt c (n := 2), List.range_succ, List.take_append, hlen]

/-! The iterations of a block -/

/-- The last iteration xors in U one HMAC further on (40_key_deriver.md R110). -/
theorem pbkdf2Iterate_succ_eq_xor (p u t : List Byte) (n : Nat) :
    pbkdf2Iterate p (n + 1) u t = xorBytes (pbkdf2Iterate p n u t) (Nat.iterate (hmacSha1 p) (n + 1) u) := by
  induction n generalizing u t with
  | zero => rfl
  | succ n ih => exact ih (hmacSha1 p u) (xorBytes t (hmacSha1 p u))

theorem pbkdf2Block_succ (p salt : List Byte) {c : Nat} (i : Nat) (hc : 1 ≤ c) :
    pbkdf2Block p salt (c + 1) i = xorBytes (pbkdf2Block p salt c i)
      (Nat.iterate (hmacSha1 p) c (hmacSha1 p (salt ++ be32bytes (BitVec.ofNat 32 i)))) := by
  obtain ⟨n, rfl⟩ := Nat.exists_eq_add_of_le' hc
  exact pbkdf2Iterate_succ_eq_xor p _ _ n

/-! DERIVE -/

/-- With legal operands DERIVE writes the derived key and completes with OK (40_key_deriver.md R112). -/
theorem exec_derive_of_ready {s : State} (h : DeriveReady s) :
    exec .derive s = .next (s.writeDerivedKey.complete .ok) :=
  execDerive_ok (s.deriveOperandsOk_iff.mpr h)

/-- With any other operands DERIVE only completes (40_key_deriver.md R112, R113). -/
theorem exec_derive_of_not_ready {s : State} (h : ¬ DeriveReady s) :
    exec .derive s = .next (s.complete .invalidParameters) :=
  execDerive_bad (Bool.eq_false_iff.mpr (mt s.deriveOperandsOk_iff.mp h))

/-- The operands out of range, one by one (40_key_deriver.md R112). -/
theorem not_deriveReady_iff (s : State) :
    ¬ DeriveReady s ↔ s.passLen = 0 ∨ s.saltLen = 0 ∨ s.iter = 0 ∨ s.dklen = 0 ∨ 64 < s.passLen.toNat
      ∨ 64 < s.saltLen.toNat ∨ 32 < s.dklen.toNat := by
  unfold DeriveReady
  bv_omega

theorem getElem_keyOfBytes (dk : List Byte) (n : Nat) (i : Fin 32) :
    (keyOfBytes dk n)[i] = if i.val < n then dk.getD i.val 0 else 0 := by
  simp [keyOfBytes]

/-- Two states with the same operands derive the same key: the rest of PASS and SALT is not read
(40_key_deriver.md R117). -/
theorem State.derivedKey_congr {s s' : State} (hpassLen : s'.passLen = s.passLen) (hsaltLen : s'.saltLen = s.saltLen)
    (hiter : s'.iter = s.iter) (hdklen : s'.dklen = s.dklen)
    (hpass : ∀ i, i < s.passLen.toNat → s'.byteAt (passBase + i) = s.byteAt (passBase + i))
    (hsalt : ∀ i, i < s.saltLen.toNat → s'.byteAt (saltBase + i) = s.byteAt (saltBase + i)) :
    s'.derivedKey = s.derivedKey := by
  simp only [State.derivedKey, State.passphrase, State.saltString, hpassLen, hsaltLen, hiter, hdklen,
    State.bytesAt_congr hpass, State.bytesAt_congr hsalt]

/-- Either decrypt command fails the key check with any KEYLEN but 32 (41_block_decryptor.md R134). -/
theorem exec_of_badKeyLength {i : Instr} (hi : i ∈ [Instr.decrypt, Instr.decryptFinal]) {s : State}
    (h : s.keylen.toNat ≠ 32) : exec i s = .next (s.clearLengths.complete .invalidKeyLength) := by
  have hk : s.keyLengthOk = false := Bool.eq_false_iff.mpr (mt s.keyLengthOk_iff.mp h)
  rcases List.mem_pair.mp hi with rfl | rfl
  · exact execDecrypt_badKey hk
  · exact execDecryptFinal_badKey hk

/-- Settles O35: DERIVE's two outcomes are `exec_derive_of_ready` and `exec_derive_of_not_ready`. -/
theorem deriveCommand : Obligations.DeriveCommand := by
  intro s
  refine ⟨fun hready => ⟨_, exec_derive_of_ready hready, getElem_keyOfBytes _ _, rfl, ?progress, rfl, rfl, rfl, rfl, rfl,
    CommandFrame.writeDerivedKey.complete _, fun _ => rfl⟩, exec_derive_of_not_ready⟩
  case progress => exact BitVec.toNat_ofNat _ _

/-- Settles O36: acceptance changes no operand, and each of the conditions makes them illegal. -/
theorem failedDeriveIsAtomic : Obligations.FailedDeriveIsAtomic := fun s v hbad =>
  exec_derive_of_not_ready ((not_deriveReady_iff (s.accept v)).mpr hbad)

/-- Settles O37: KEYLEN is then DKLEN, which is not 32, so either decrypt command fails its key check. -/
theorem shortKeyIsZeroFilledAndRejected : Obligations.ShortKeyIsZeroFilledAndRejected := by
  intro s hready hshort
  refine ⟨_, exec_derive_of_ready hready, rfl, fun i hi => ?filled, fun i hi => ?rejected⟩
  case filled => exact (getElem_keyOfBytes _ _ i).trans (if_neg hi.not_gt)
  case rejected => exact ⟨_, exec_of_badKeyLength hi hshort.ne, rfl⟩

/-- Settles O39: the second state is ready too, and derives the same key. -/
theorem deriveDependsOnOperandsOnly : Obligations.DeriveDependsOnOperandsOnly := by
  intro s s' hready hpassLen hsaltLen hiter hdklen hpass hsalt
  have hready' : DeriveReady s' := by rwa [DeriveReady, hpassLen, hsaltLen, hiter, hdklen]
  have hkey : s'.derivedKey = s.derivedKey := State.derivedKey_congr hpassLen hsaltLen hiter hdklen hpass hsalt
  exact ⟨_, _, exec_derive_of_ready hready, exec_derive_of_ready hready', by simp [hkey, hdklen], hdklen,
    by simp [hiter, hdklen], rfl⟩

/-- Settles O40: the recurrences are those of the inner loop, and the greatest ITER is as legal as any other. -/
theorem iterationCount : Obligations.IterationCount := by
  refine ⟨fun _ _ _ => rfl, fun p salt _ i => pbkdf2Block_succ p salt i, pbkdf2Iterate_succ_eq_xor,
    fun s hready => ⟨_, exec_derive_of_ready hready, rfl, fun hiter hdklen => ?wraps⟩⟩
  case wraps =>
    simp only [State.complete_progress, State.writeDerivedKey_progress, hiter, hdklen]
    decide

end Sys2Proof.Machine
end

section
/-! PROOFS. The BlockDecryptor's statements: the field and the S-boxes (41_block_decryptor.md R121 to R123), the key
expansion (R124, R126), the cipher and ECB (R130 to R133), and the commands DECRYPT and DECRYPT_FINAL (R134 to R142). -/

namespace Sys2Proof.Machine

open Sys2Proof

/-! The field and the S-boxes -/

/-- The affine map of the S-box (41_block_decryptor.md R122). -/
def sboxAffine (b : Byte) : Byte :=
  b ^^^ b.rotateLeft 1 ^^^ b.rotateLeft 2 ^^^ b.rotateLeft 3 ^^^ b.rotateLeft 4 ^^^ 0x63

/-- The affine map that undoes `sboxAffine` (FIPS 197, InvSubBytes). -/
def sboxAffineInverse (y : Byte) : Byte := y.rotateLeft 1 ^^^ y.rotateLeft 3 ^^^ y.rotateLeft 6 ^^^ 0x05

theorem sboxAffine_sboxAffineInverse (y : Byte) : sboxAffine (sboxAffineInverse y) = y := by
  revert y; decide +kernel

/-- The S-box with its affine map undone is the field inverse (41_block_decryptor.md R122). -/
theorem gmul_sboxAffineInverse_sbox (x : Byte) :
    x = 0 ∧ sboxAffineInverse (sbox x) = 0 ∨ gmul x (sboxAffineInverse (sbox x)) = 1 := by
  revert x; decide +kernel

/-- Settles O43: the field inverse of x is its S-box entry with the affine map undone. -/
theorem sboxesAreInverse : Obligations.SboxesAreInverse :=
  ⟨fun x => ⟨sboxAffineInverse (sbox x), gmul_sboxAffineInverse_sbox x, (sboxAffine_sboxAffineInverse _).symm⟩,
    invSbox_sbox_all, sbox_invSbox_all⟩

/-! InvMixColumns -/

/-- Row r of column c (41_block_decryptor.md R130). -/
theorem getElem_invMixColumns (s : AesBlock) (c r : Fin 4) :
    (invMixColumns s)[4 * c.val + r.val] = invMixByte s[4 * c.val + r.val] s[4 * c.val + (r.val + 1) % 4]
      s[4 * c.val + (r.val + 2) % 4] s[4 * c.val + (r.val + 3) % 4] := by
  have hcol : (4 * c.val + r.val) / 4 = c.val := by omega
  have hrow : (4 * c.val + r.val) % 4 = r.val := by omega
  simp only [invMixColumns, Vector.getElem_ofFn, hcol, hrow]

/-- Settles O44: the bits of a multiplier choose the powers of xtime, and the rows are those of `getElem_invMixColumns` with
their terms in the order of the bytes. -/
theorem invMixColumnsMatrix : Obligations.InvMixColumnsMatrix := by
  refine ⟨fun a => ?powers, fun s c => ⟨_, _, _, _, rfl, rfl, rfl, rfl, getElem_invMixColumns s c 0,
    (getElem_invMixColumns s c 1).trans ?row1, (getElem_invMixColumns s c 2).trans ?row2,
    (getElem_invMixColumns s c 3).trans ?row3⟩⟩
  case powers =>
    refine ⟨?_, ?_, ?_, ?_⟩ <;>
    · simp [gmul, gmulFrom]
      ac_rfl
  all_goals
    simp only [invMixByte, Fin.isValue, Fin.coe_ofNat_eq_mod, Nat.reduceMod, Nat.reduceAdd, Nat.add_zero]
    ac_rfl

/-! The key expansion -/

theorem length_keyWords (key : Vector Byte 32) : (keyWords key).length = 8 := by simp [keyWords]

/-- The first 8 words of the schedule are the key's (41_block_decryptor.md R126). -/
theorem keyExpansion_eq_keyWords_append (key : Vector Byte 32) :
    ∃ rest, rest.length = 52 ∧ keyExpansion key = keyWords key ++ rest := by
  obtain ⟨pre, hlen, heq⟩ := keyExtend_append 52 8 (keyWords key).reverse
  exact ⟨pre.reverse, by simpa using hlen, by simp [keyExpansion, heq]⟩

theorem length_keyExpansion (key : Vector Byte 32) : (keyExpansion key).length = 60 := by
  obtain ⟨rest, hrest, heq⟩ := keyExpansion_eq_keyWords_append key
  rw [heq, List.length_append, length_keyWords, hrest]

theorem getD_keyExpansion_lt (key : Vector Byte 32) (i : Fin 8) (k : Fin 4) :
    ((keyExpansion key).getD i.val #v[0, 0, 0, 0])[k] = key[4 * i.val + k.val] := by
  obtain ⟨rest, -, heq⟩ := keyExpansion_eq_keyWords_append key
  rw [heq, List.getD_append _ _ _ _ (by rw [length_keyWords]; exact i.isLt)]
  simp [keyWords]

/-- The recurrence of the key expansion (41_block_decryptor.md R126). -/
theorem getD_keyExpansion_eq_xorWord (key : Vector Byte 32) {i : Nat} (h8 : 8 ≤ i) (h60 : i < 60) :
    (keyExpansion key).getD i #v[0, 0, 0, 0] = xorWord ((keyExpansion key).getD (i - 8) #v[0, 0, 0, 0])
      (keyTemp i ((keyExpansion key).getD (i - 1) #v[0, 0, 0, 0])) :=
  keyExtend_recurrence 52 8 _ (by rw [List.length_reverse, length_keyWords]) le_rfl i h8 h60

theorem getElem_xorWord (u v : KeyWord) (k : Fin 4) : (xorWord u v)[k] = u[k] ^^^ v[k] := by simp [xorWord]

theorem getElem_subWord (w : KeyWord) (k : Fin 4) : (subWord w)[k] = sbox w[k] := by simp [subWord]

theorem getElem_rotWord (w : KeyWord) (k : Fin 4) : (rotWord w)[k] = w[(k.val + 1) % 4] := by
  fin_cases k <;> rfl

/-- Settles O45: the recurrence is `getD_keyExpansion_eq_xorWord`, read byte by byte in the three cases of `keyTemp`. -/
theorem keyExpansionRecurrence : Obligations.KeyExpansionRecurrence := by
  refine ⟨by decide, fun j hj => ?constants, fun _ => rfl, fun key =>
    ⟨length_keyExpansion key, getD_keyExpansion_lt key, fun i h8 h60 => ⟨_, _, _, rfl, rfl, rfl, ?_⟩⟩⟩
  case constants =>
    obtain ⟨n, rfl⟩ := Nat.exists_eq_add_of_le' hj
    rfl
  rw [getD_keyExpansion_eq_xorWord key h8 h60]
  refine ⟨fun h0 k => ?rotated, fun h4 k => ?substituted, fun h0 h4 k => ?plain⟩
  case rotated => rw [keyTemp, if_pos h0, getElem_xorWord, getElem_xorWord, getElem_subWord, getElem_rotWord]
  case substituted => rw [keyTemp, if_neg (by omega), if_pos h4, getElem_xorWord, getElem_subWord]
  case plain => rw [keyTemp, if_neg h0, if_neg h4, getElem_xorWord]

/-! The cipher -/

/-- The rounds of the inverse cipher undo those of the forward cipher; between them stand ShiftRows and SubBytes of the last
round (41_block_decryptor.md R131). -/
theorem invRounds_forwardRounds (w : List KeyWord) (n : Nat) (b : AesBlock) :
    invRounds w n (shiftRows (subBytes (forwardRounds w n b))) = shiftRows (subBytes b) := by
  induction n with
  | zero => rfl
  | succ n ih =>
    rw [forwardRounds, invRounds, invShiftRows_shiftRows, invSubBytes_subBytes, addRoundKey_addRoundKey,
      invMixColumns_mixColumns, ih]

theorem forwardRounds_invRounds (w : List KeyWord) (n : Nat) (b : AesBlock) :
    forwardRounds w n (invSubBytes (invShiftRows (invRounds w n b))) = invSubBytes (invShiftRows b) := by
  induction n generalizing b with
  | zero => rfl
  | succ n ih =>
    rw [forwardRounds, invRounds, ih, subBytes_invSubBytes, shiftRows_invShiftRows, mixColumns_invMixColumns,
      addRoundKey_addRoundKey]

theorem invCipher_forwardCipher (w : List KeyWord) (b : AesBlock) : invCipher w (forwardCipher w b) = b := by
  rw [invCipher, forwardCipher, addRoundKey_addRoundKey, invRounds_forwardRounds, invShiftRows_shiftRows,
    invSubBytes_subBytes, addRoundKey_addRoundKey]

theorem forwardCipher_invCipher (w : List KeyWord) (b : AesBlock) : forwardCipher w (invCipher w b) = b := by
  rw [invCipher, forwardCipher, addRoundKey_addRoundKey, forwardRounds_invRounds, subBytes_invSubBytes,
    shiftRows_invShiftRows, addRoundKey_addRoundKey]

/-- Settles O46: the forward cipher is a two-sided inverse. -/
theorem inverseCipherIsAPermutation : Obligations.InverseCipherIsAPermutation := fun key =>
  have hleft : Function.LeftInverse (forwardCipher (keyExpansion key)) (aes256Dec key) :=
    forwardCipher_invCipher (keyExpansion key)
  have hright : Function.RightInverse (forwardCipher (keyExpansion key)) (aes256Dec key) :=
    invCipher_forwardCipher (keyExpansion key)
  ⟨⟨hleft.injective, hright.surjective⟩, fun b => ⟨hright b, hleft b⟩⟩

/-! ECB -/

theorem ecbDec_eq_ecbBlocks (key : Vector Byte 32) {c : List Byte} {n : Nat} (h : c.length = 16 * n) :
    ecbDec key c = ecbBlocks (keyExpansion key) n c := by
  rw [ecbDec, h, Nat.mul_div_cancel_left n (by decide)]

/-- Block i of the output is the decryption of block i (41_block_decryptor.md R132). -/
theorem ecbDec_block (key : Vector Byte 32) {c : List Byte} {n i : Nat} (h : c.length = 16 * n) (hi : i < n) :
    ((ecbDec key c).drop (16 * i)).take 16 = (aes256Dec key (blockOfBytes ((c.drop (16 * i)).take 16))).toList := by
  rw [ecbDec_eq_ecbBlocks key h]
  exact ecbBlocks_block _ n c i hi

/-- Settles O47: by `ecbDec_block` the output block is a function of the input block. -/
theorem ecbBlocksAreIndependent : Obligations.EcbBlocksAreIndependent := by
  intro key n c _ hlen
  refine ⟨length_ecbDec key (by omega), fun i => ecbDec_block key hlen, fun i j hi hj hsame => ?_⟩
  rw [ecbDec_block key hlen hi, ecbDec_block key hlen hj, hsame]

/-- Whole blocks are decrypted on their own (41_block_decryptor.md R133). -/
theorem ecbDec_append (key : Vector Byte 32) {a b : List Byte} (ha : a.length % 16 = 0) (hb : b.length % 16 = 0) :
    ecbDec key (a ++ b) = ecbDec key a ++ ecbDec key b := by
  obtain ⟨m, hm⟩ := Nat.dvd_of_mod_eq_zero ha
  obtain ⟨n, hn⟩ := Nat.dvd_of_mod_eq_zero hb
  have hmn : (a ++ b).length = 16 * (m + n) := by rw [List.length_append, hm, hn, Nat.mul_add]
  rw [ecbDec_eq_ecbBlocks key hmn, ecbBlocks_append _ m n a b hm, ← ecbDec_eq_ecbBlocks key hm,
    ← ecbDec_eq_ecbBlocks key hn]

theorem ecbBlocks_ecbEncryptBlocks (w : List KeyWord) (n : Nat) (p : List Byte) (h : p.length = 16 * n) :
    ecbBlocks w n (ecbEncryptBlocks w n p) = p := by
  induction n generalizing p with
  | zero => exact (List.length_eq_zero_iff.mp h).symm
  | succ n ih =>
    rw [ecbEncryptBlocks, ecbBlocks, List.take_left' (by simp), List.drop_left' (by simp), blockOfBytes_toList,
      invCipher_forwardCipher, blockOfBytes_take p (by omega), ih _ (by rw [List.length_drop]; omega),
      List.take_append_drop]

theorem ecbDec_ecbEnc (key : Vector Byte 32) {p : List Byte} (h : p.length % 16 = 0) :
    ecbDec key (ecbEnc key p) = p := by
  obtain ⟨n, hn⟩ := Nat.dvd_of_mod_eq_zero h
  have henc : ecbEnc key p = ecbEncryptBlocks (keyExpansion key) n p := by
    rw [ecbEnc, hn, Nat.mul_div_cancel_left n (by decide)]
  rw [henc, ecbDec_eq_ecbBlocks key (length_ecbEncryptBlocks _ n p), ecbBlocks_ecbEncryptBlocks _ n p hn]

/-! What DECRYPT and DECRYPT_FINAL do -/

theorem decryptReady_iff (s : State) : DecryptReady s ↔ s.keyLengthOk = true ∧ s.dataLengthOk = true := by
  rw [DecryptReady, s.keyLengthOk_iff, s.dataLengthOk_iff]

theorem DecryptReady.dataLengthOk {s : State} (h : DecryptReady s) : s.dataLengthOk = true :=
  ((decryptReady_iff s).mp h).2

theorem DecryptReady.length_dataInput_mod {s : State} (h : DecryptReady s) : s.dataInput.length % 16 = 0 := by
  obtain ⟨-, -, hmod, -⟩ := h
  rwa [State.length_dataInput]

theorem exec_decrypt_of_ready {s : State} (h : DecryptReady s) :
    exec .decrypt s = .next (s.writePlaintext.complete .ok) := by
  obtain ⟨hkey, hlength⟩ := (decryptReady_iff s).mp h
  exact execDecrypt_ok hkey hlength

theorem exec_decryptFinal_of_ready {s : State} (h : DecryptReady s) {ok : Bool} {p : Byte}
    (hpad : padCheck s.decryptedData s.strictPad = (ok, p)) :
    exec .decryptFinal s = .next ((s.writeFinal ok p).complete (padCode ok)) := by
  obtain ⟨hkey, hlength⟩ := (decryptReady_iff s).mp h
  have hexec := execDecryptFinal_ok hkey hlength
  rwa [hpad] at hexec

/-- The length check, after the key check in the decrypting commands (41_block_decryptor.md R135). -/
theorem exec_of_badDataLength {s : State} {i : Instr}
    (hi : i = .unpad ∨ s.keylen.toNat = 32 ∧ (i = .decrypt ∨ i = .decryptFinal)) (h : s.dataLengthOk = false) :
    exec i s = .next (s.clearLengths.complete .invalidCiphertextLength) := by
  obtain rfl | ⟨hkey, rfl | rfl⟩ := hi
  · exact execUnpad_badLength h
  · exact execDecrypt_badLength (s.keyLengthOk_iff.mpr hkey) h
  · exact execDecryptFinal_badLength (s.keyLengthOk_iff.mpr hkey) h

theorem State.dataLengthOk_eq_false_iff (s : State) :
    s.dataLengthOk = false ↔ s.dataLen = 0 ∨ s.dataLen.toNat % 16 ≠ 0 ∨ s.dataBytes < s.dataLen.toNat := by
  rw [← Bool.not_eq_true, s.dataLengthOk_iff]
  bv_omega

theorem padCode_ne_check (ok : Bool) : (padCode ok).code ≠ 2 ∧ (padCode ok).code ≠ 3 := by
  cases ok <;> decide

/-- Past its checks a command does not end with the code of one (60_exceptions.md R156). -/
theorem exec_errcode_of_lengthOk {s : State} {i : Instr}
    (hi : i = .unpad ∨ s.keylen.toNat = 32 ∧ (i = .decrypt ∨ i = .decryptFinal)) (h : s.dataLengthOk = true) :
    ∃ t, exec i s = .next t ∧ t.errcode ≠ 2 ∧ t.errcode ≠ 3 := by
  obtain rfl | ⟨hkey, rfl | rfl⟩ := hi
  · exact ⟨_, execUnpad_ok h, padCode_ne_check _⟩
  · exact ⟨_, execDecrypt_ok (s.keyLengthOk_iff.mpr hkey) h, padCode_ne_check true⟩
  · exact ⟨_, execDecryptFinal_ok (s.keyLengthOk_iff.mpr hkey) h, padCode_ne_check _⟩

/-- Settles O48: with KEYLEN 32 a command ends with the code of the length check, or past both checks. -/
theorem keyCheckComesFirst : Obligations.KeyCheckComesFirst := by
  intro s i hi
  refine ⟨exec_of_badKeyLength hi, fun hkey => ?_⟩
  have hpastKey : i = .unpad ∨ s.keylen.toNat = 32 ∧ (i = .decrypt ∨ i = .decryptFinal) :=
    .inr ⟨hkey, List.mem_pair.mp hi⟩
  cases hlength : s.dataLengthOk with
  | false => exact ⟨_, exec_of_badDataLength hpastKey hlength, by simp [ResultCode.code]⟩
  | true =>
    obtain ⟨t, hexec, hne, -⟩ := exec_errcode_of_lengthOk hpastKey hlength
    exact ⟨t, hexec, hne⟩

/-- Settles O49: `exec_of_badDataLength` where the check fails, `exec_errcode_of_lengthOk` where it passes. -/
theorem lengthCheck : Obligations.LengthCheck := by
  intro s i hi
  refine ⟨fun hbad => exec_of_badDataLength hi (s.dataLengthOk_eq_false_iff.mpr hbad), fun hpos hmod hle => ?_⟩
  obtain ⟨t, hexec, -, hne⟩ := exec_errcode_of_lengthOk hi (s.dataLengthOk_iff.mpr ⟨hpos, hmod, hle⟩)
  exact ⟨t, hexec, hne⟩

theorem State.toNat_blockCount (s : State) : s.blockCount.toNat = s.dataLen.toNat / 16 := by
  rw [State.blockCount, BitVec.toNat_ofNat, Nat.mod_eq_of_lt]
  exact (Nat.div_le_self _ _).trans_lt s.dataLen.isLt

/-- Settles O50: the stored bytes are `State.decryptedData`, which is DATA_LEN bytes long. -/
theorem decryptCommand : Obligations.DecryptCommand := fun s hready =>
  have hlength := hready.dataLengthOk
  ⟨_, exec_decrypt_of_ready hready, fun _ => State.byteAt_writePlaintext_in hlength, rfl, rfl, s.toNat_blockCount,
    rfl, rfl, rfl, rfl, rfl, (CommandFrame.writePlaintext hlength).complete _⟩

/-- Settles O51: p is at most 16 where the check passes, so the strip DATA_LEN - p does not wrap. -/
theorem decryptFinalCommand : Obligations.DecryptFinalCommand := by
  intro s hready b p
  have hlength := hready.dataLengthOk
  obtain ⟨ok, hok⟩ : ∃ ok, ok = (padCheck b s.strictPad).1 := ⟨_, rfl⟩
  have hpad : padCheck s.decryptedData s.strictPad = (ok, p) := Prod.ext hok.symm rfl
  rw [← hok]
  refine ⟨_, exec_decryptFinal_of_ready hready hpad, rfl, s.toNat_blockCount, rfl, rfl, rfl, rfl,
    (CommandFrame.writeFinal hlength ok p).complete _, ?passed, ?failed⟩
  case passed =>
    rintro rfl
    exact ⟨fun i => State.byteAt_writeFinal_in hlength true p, State.strip_length hlength hok.symm, rfl⟩
  case failed =>
    rintro rfl
    exact ⟨fun i => State.byteAt_writeFinal_in hlength false p, rfl, rfl⟩

/-! The outputs -/

theorem State.take_bytesAt (s : State) (x : Nat) {k n : Nat} (h : k ≤ n) : (s.bytesAt x n).take k = s.bytesAt x k := by
  rw [State.bytesAt, ← List.map_take, List.take_range, Nat.min_eq_left h, State.bytesAt]

theorem State.bytesAt_storeBytes_dataBase {s : State} (h : s.dataLengthOk = true) :
    (s.storeBytes dataBase s.decryptedData).bytesAt dataBase s.dataLen.toNat = s.decryptedData := by
  rw [← s.length_decryptedData h]
  exact s.bytesAt_storeBytes dataBase s.decryptedData

/-- DECRYPT's output is the plaintext (41_block_decryptor.md R136). -/
theorem State.output_writePlaintext {s : State} (h : s.dataLengthOk = true) (c : ResultCode) :
    (s.writePlaintext.complete c).output = s.decryptedData :=
  State.bytesAt_storeBytes_dataBase h

/-- The strip of a passed padding check loses nothing (42_padding_validator.md R146). -/
theorem State.toNat_strip_add {s : State} (h : s.dataLengthOk = true) {b : List Byte} {strict : Bool} {p : Byte}
    (hpad : padCheck b strict = (true, p)) : (s.dataLen - p.setWidth 32).toNat + p.toNat = s.dataLen.toNat := by
  have hstrip := State.strip_length h (b := b) (st := strict) (congrArg Prod.fst hpad)
  rwa [hpad] at hstrip

/-- DECRYPT_FINAL's output is the plaintext without its padding (41_block_decryptor.md R138; 42_padding_validator.md
R146). -/
theorem State.output_writeFinal {s : State} (h : s.dataLengthOk = true) {strict : Bool} {p : Byte}
    (hpad : padCheck s.decryptedData strict = (true, p)) (c : ResultCode) :
    ((s.writeFinal true p).complete c).output = s.decryptedData.take (s.dataLen.toNat - p.toNat) := by
  have houtLen := Nat.eq_sub_of_add_eq (State.toNat_strip_add h hpad)
  conv_rhs => rw [← State.bytesAt_storeBytes_dataBase h, State.take_bytesAt _ _ (Nat.sub_le _ _), ← houtLen]
  rfl

/-! Chunks -/

/-- PadCheck looks at the last block only, so it answers the same on any whole blocks that end the sequence
(42_padding_validator.md R150). -/
theorem padCheck_append_blocks (a : List Byte) {b : List Byte} (hpos : 0 < b.length) (hmod : b.length % 16 = 0)
    (strict : Bool) : padCheck (a ++ b) strict = padCheck b strict := by
  have hlast : (b.drop (b.length - 16)).length = 16 := by rw [List.length_drop]; omega
  rw [← List.take_append_drop (b.length - 16) b, ← List.append_assoc, padCheck_append _ _ strict hlast,
    padCheck_append _ _ strict hlast]

/-- Whole chunks are decrypted one by one (41_block_decryptor.md R133, R140). -/
theorem ecbDec_flatMap_dataInput (key : Vector Byte 32) {chunks : List State}
    (h : ∀ c ∈ chunks, DecryptReady c ∧ c.key = key) :
    (chunks.flatMap State.dataInput).length % 16 = 0
      ∧ ecbDec key (chunks.flatMap State.dataInput) = chunks.flatMap State.decryptedData := by
  induction chunks with
  | nil => exact ⟨rfl, rfl⟩
  | cons c cs ih =>
    obtain ⟨⟨hready, rfl⟩, hrest⟩ := List.forall_mem_cons.mp h
    obtain ⟨hmod, hdec⟩ := ih hrest
    have hc := hready.length_dataInput_mod
    rw [List.flatMap_cons, List.flatMap_cons, ecbDec_append _ hc hmod, hdec, List.length_append]
    exact ⟨by omega, rfl⟩

/-- Settles O59: the whole's plaintext is the chunks' plaintexts in order, and PadCheck and the strip look at the last one
only. -/
theorem chunkedDecryptionComposes : Obligations.ChunkedDecryptionComposes := by
  intro chunks last whole hchunks hlast hkey hstrict hwhole hinput
  obtain ⟨hmod, hdec⟩ := ecbDec_flatMap_dataInput whole.key hchunks
  have hplain : whole.decryptedData = chunks.flatMap State.decryptedData ++ last.decryptedData := by
    rw [State.decryptedData, hinput, ecbDec_append _ hmod hlast.length_dataInput_mod, hdec, State.decryptedData, hkey]
  have hlastLen := State.length_decryptedData hlast.dataLengthOk
  have ⟨_, hlastPos, hlastMod, _⟩ := hlast
  have hsame : padCheck whole.decryptedData whole.strictPad = padCheck last.decryptedData last.strictPad := by
    rw [hplain, hstrict]
    exact padCheck_append_blocks _ (by rwa [hlastLen]) (by rwa [hlastLen]) _
  rcases hpad : padCheck last.decryptedData last.strictPad with ⟨ok, p⟩
  rw [hpad] at hsame
  refine ⟨chunks.map State.decryptedData, _, _, ?outputs, exec_decryptFinal_of_ready hlast hpad,
    exec_decryptFinal_of_ready hwhole hsame, rfl, fun hcode => ?final⟩
  case outputs =>
    rw [List.forall₂_map_right_iff, List.forall₂_same]
    intro c hc
    have hready := (hchunks c hc).1
    exact ⟨_, exec_decrypt_of_ready hready, rfl, State.output_writePlaintext hready.dataLengthOk .ok⟩
  case final =>
    cases ok with
    | false => cases hcode
    | true =>
      have hp : p.toNat ≤ last.dataLen.toNat :=
        (Nat.le_add_left _ _).trans_eq (State.toNat_strip_add hlast.dataLengthOk hpad)
      have hwholeLen := State.length_decryptedData hwhole.dataLengthOk
      rw [hplain, List.length_append, hlastLen] at hwholeLen
      rw [State.output_writeFinal hlast.dataLengthOk hpad, State.output_writeFinal hwhole.dataLengthOk hsame, hplain,
        ← hwholeLen, Nat.add_sub_assoc hp, List.take_length_add_append, List.flatMap_def]

/-! The operands -/

/-- The operands the decrypting commands read, STRICT_PAD left out, are the same in two states of one core
(41_block_decryptor.md R142). -/
structure SameOperands (s s' : State) : Prop where
  dataBytes : s'.dataBytes = s.dataBytes
  keylen : s'.keylen = s.keylen
  key : s'.key = s.key
  dataLen : s'.dataLen = s.dataLen
  data : ∀ j, j < s.dataLen.toNat → s'.byteAt (dataBase + j) = s.byteAt (dataBase + j)

/-- Two commands, from s to t and from s' to t', leave the same result; where they leave PROGRESS alone it is as before. -/
def SameDecryption (s s' t t' : State) : Prop :=
  t'.errcode = t.errcode ∧ t'.outLen = t.outLen ∧ t'.padLen = t.padLen
    ∧ (s'.progress = s.progress → t'.progress = t.progress)
    ∧ ∀ j, j < s.dataLen.toNat → t'.byteAt (dataBase + j) = t.byteAt (dataBase + j)

section
variable {s s' : State} (h : SameOperands s s')
include h

theorem SameOperands.dataLengthOk : s'.dataLengthOk = s.dataLengthOk := by
  simp only [State.dataLengthOk, h.dataLen, h.dataBytes]

theorem SameOperands.decryptReady (hready : DecryptReady s) : DecryptReady s' := by
  rwa [DecryptReady, h.keylen, h.dataLen, h.dataBytes]

theorem SameOperands.decryptedData : s'.decryptedData = s.decryptedData := by
  simp only [State.decryptedData, State.dataInput, h.key, h.dataLen, State.bytesAt_congr h.data]

theorem SameOperands.blockCount : s'.blockCount = s.blockCount := by
  simp only [State.blockCount, h.dataLen]

theorem SameOperands.clearLengths (c : ResultCode) :
    SameDecryption s s' (s.clearLengths.complete c) (s'.clearLengths.complete c) :=
  ⟨rfl, rfl, rfl, id, h.data⟩

theorem SameOperands.writePlaintext (hready : DecryptReady s) (c : ResultCode) :
    SameDecryption s s' (s.writePlaintext.complete c) (s'.writePlaintext.complete c) := by
  refine ⟨by simp, by simp [h.dataLen], by simp, fun _ => by simp [h.blockCount], fun j hj => ?_⟩
  have hj' : j < s'.dataLen.toNat := by rwa [h.dataLen]
  rw [State.complete_byteAt, State.complete_byteAt, State.byteAt_writePlaintext_in hready.dataLengthOk hj,
    State.byteAt_writePlaintext_in (h.decryptReady hready).dataLengthOk hj', h.decryptedData]

theorem SameOperands.writeFinal (hready : DecryptReady s) (ok : Bool) (p : Byte) (c : ResultCode) :
    SameDecryption s s' ((s.writeFinal ok p).complete c) ((s'.writeFinal ok p).complete c) := by
  refine ⟨by simp, by simp [h.dataLen], by simp, fun _ => by simp [h.blockCount], fun j hj => ?_⟩
  have hj' : j < s'.dataLen.toNat := by rwa [h.dataLen]
  rw [State.complete_byteAt, State.complete_byteAt, State.byteAt_writeFinal_in hready.dataLengthOk ok p hj,
    State.byteAt_writeFinal_in (h.decryptReady hready).dataLengthOk ok p hj', h.decryptedData]

end

/-- Settles O58: the checks and the plaintext are functions of the operands, so both commands take the same case. -/
theorem decryptionIsAPureFunction : Obligations.DecryptionIsAPureFunction := by
  intro s s' i hi hdataBytes hkeylen hkey hdataLen hdata
  have h : SameOperands s s' := ⟨hdataBytes, hkeylen, hkey, hdataLen, hdata⟩
  have hkind : i = .decrypt ∨ i = .decryptFinal := hi.imp_right And.left
  by_cases hkey32 : s.keylen.toNat = 32
  case neg =>
    have hmem : i ∈ [Instr.decrypt, Instr.decryptFinal] := List.mem_pair.mpr hkind
    exact ⟨_, _, exec_of_badKeyLength hmem hkey32, exec_of_badKeyLength hmem (by rwa [hkeylen]), h.clearLengths _⟩
  case pos =>
    cases hlength : s.dataLengthOk with
    | false =>
      exact ⟨_, _, exec_of_badDataLength (.inr ⟨hkey32, hkind⟩) hlength,
        exec_of_badDataLength (.inr ⟨by rwa [hkeylen], hkind⟩) (h.dataLengthOk.trans hlength), h.clearLengths _⟩
    | true =>
      have hready : DecryptReady s := (decryptReady_iff s).mpr ⟨s.keyLengthOk_iff.mpr hkey32, hlength⟩
      obtain rfl | ⟨rfl, hstrict⟩ := hi
      · exact ⟨_, _, exec_decrypt_of_ready hready, exec_decrypt_of_ready (h.decryptReady hready),
          h.writePlaintext hready _⟩
      · rcases hpad : padCheck s.decryptedData s.strictPad with ⟨ok, p⟩
        have hpad' : padCheck s'.decryptedData s'.strictPad = (ok, p) := by rw [h.decryptedData, hstrict, hpad]
        exact ⟨_, _, exec_decryptFinal_of_ready hready hpad, exec_decryptFinal_of_ready (h.decryptReady hready) hpad',
          h.writeFinal hready ok p _⟩

/-! The round trip -/

theorem length_pkcs7Pad (p : List Byte) : (pkcs7Pad p).length = p.length + pkcs7Count p.length := by
  simp [pkcs7Pad, bytesOf]

theorem length_pkcs7Pad_mod (p : List Byte) : (pkcs7Pad p).length % 16 = 0 := by
  rw [length_pkcs7Pad, pkcs7Count]
  omega

theorem toNat_pkcs7Count (n : Nat) : (BitVec.ofNat 8 (pkcs7Count n)).toNat = pkcs7Count n := by
  rw [BitVec.toNat_ofNat, pkcs7Count]
  omega

/-- PadCheck accepts PKCS#7 padding, strict or lax (42_padding_validator.md R151). -/
theorem padCheck_pkcs7Pad (p : List Byte) (strict : Bool) :
    padCheck (pkcs7Pad p) strict = (true, BitVec.ofNat 8 (pkcs7Count p.length)) := by
  have hpos : 1 ≤ pkcs7Count p.length := by rw [pkcs7Count]; omega
  have hle : pkcs7Count p.length ≤ 16 := Nat.sub_le _ _
  have hlast : lastByte (pkcs7Pad p) = BitVec.ofNat 8 (pkcs7Count p.length) := by
    obtain ⟨k, hk⟩ := Nat.exists_eq_add_of_le' hpos
    simp [lastByte, pkcs7Pad, bytesOf, hk, List.replicate_succ', ← List.append_assoc]
  have hrange : ¬ (pkcs7Count p.length = 0 ∨ Config.padMax < pkcs7Count p.length) := by simp; omega
  simp only [padCheck, hlast, toNat_pkcs7Count, if_neg hrange, length_pkcs7Pad, Nat.add_sub_cancel]
  cases strict
  · rfl
  · simp [pkcs7Pad, bytesOf]

theorem length_ecbEnc (key : Vector Byte 32) {p : List Byte} (h : p.length % 16 = 0) :
    (ecbEnc key p).length = p.length := by
  rw [ecbEnc, length_ecbEncryptBlocks]
  exact Nat.mul_div_cancel' (Nat.dvd_of_mod_eq_zero h)

/-- Settles O60: the decryption gives the padded plaintext, which passes PadCheck and loses its padding by the strip. -/
theorem encryptThenDecryptFinal : Obligations.EncryptThenDecryptFinal := by
  intro s plain hkeylen hfits hinput
  have hdataLen : s.dataLen.toNat = plain.length + pkcs7Count plain.length := by
    rw [← s.length_dataInput, hinput, length_ecbEnc _ (length_pkcs7Pad_mod plain), length_pkcs7Pad]
  have hready : DecryptReady s := by
    have hmod := length_pkcs7Pad_mod plain
    rw [length_pkcs7Pad] at hmod
    refine ⟨hkeylen, ?_, hdataLen ▸ hmod, hfits⟩
    rw [hdataLen, pkcs7Count]
    omega
  have hplain : s.decryptedData = pkcs7Pad plain := by
    rw [State.decryptedData, hinput, ecbDec_ecbEnc _ (length_pkcs7Pad_mod plain)]
  have hpad : padCheck s.decryptedData s.strictPad = (true, BitVec.ofNat 8 (pkcs7Count plain.length)) := by
    rw [hplain, padCheck_pkcs7Pad]
  refine ⟨_, exec_decryptFinal_of_ready hready hpad, rfl, ?_⟩
  rw [State.output_writeFinal hready.dataLengthOk hpad, hplain, hdataLen, toNat_pkcs7Count, Nat.add_sub_cancel, pkcs7Pad,
    List.take_left]

end Sys2Proof.Machine
end

section
/-! PROOFS. The padding validator's statements: what PadCheck answers (42_padding_validator.md R143 to R145, R150), UNPAD's
results and frame (R147), UNPAD after DECRYPT (R148), and the lengths after a success (R149). -/

namespace Sys2Proof.Machine

open Sys2Proof

/-! PadCheck -/

theorem lastByte_eq_getD (b : List Byte) : lastByte b = b.getD (b.length - 1) 0 := by
  rw [lastByte, List.getLastD_eq_getLast?, List.getLast?_eq_getElem?, List.getD_eq_getElem?_getD]

theorem forall_mem_drop_eq_iff (b : List Byte) (n : Nat) (p : Byte) :
    (∀ x ∈ b.drop n, x = p) ↔ ∀ k, n ≤ k → k < b.length → b.getD k 0 = p := by
  constructor
  · intro h k hnk hk
    rw [List.getD_eq_getElem _ _ hk]
    exact h _ (List.mem_drop_iff_getElem.mpr ⟨k - n, by omega, by simp [Nat.add_sub_cancel' hnk]⟩)
  · intro h x hx
    obtain ⟨j, hj, rfl⟩ := List.mem_drop_iff_getElem.mp hx
    rw [← List.getD_eq_getElem _ 0]
    exact h (n + j) (Nat.le_add_right _ _) (by omega)

/-- The range check is made always, the content check when strict (42_padding_validator.md R144, R145). -/
theorem padCheck_fst_iff (b : List Byte) (strict : Bool) :
    (padCheck b strict).1 = true ↔
      (1 ≤ (lastByte b).toNat ∧ (lastByte b).toNat ≤ 16)
        ∧ (strict = true → ∀ x ∈ b.drop (b.length - (lastByte b).toNat), x = lastByte b) := by
  rw [padCheck]
  by_cases hrange : 1 ≤ (lastByte b).toNat ∧ (lastByte b).toNat ≤ 16
  · rw [if_neg (by simp only [Config.padMax]; omega)]
    cases strict <;> simp [hrange]
  · rw [if_pos (by simp only [Config.padMax]; omega)]
    simp [hrange]

/-- Settles O54: `padCheck_fst_iff`, with the final bytes read by their places. -/
theorem padCheckMeaning : Obligations.PadCheckMeaning := by
  intro b strict _ _
  rw [padCheck_snd, padCheck_fst_iff, forall_mem_drop_eq_iff, lastByte_eq_getD]
  exact ⟨rfl, Iff.rfl⟩

/-- Settles O55: either answer is the one on the last block alone. -/
theorem onlyTheLastBlockMatters : Obligations.OnlyTheLastBlockMatters := fun a b last strict hlast =>
  (padCheck_append a last strict hlast).trans (padCheck_append b last strict hlast).symm

/-! UNPAD -/

theorem exec_unpad_of_lengthOk {s : State} (h : s.dataLengthOk = true) {ok : Bool} {p : Byte}
    (hpad : padCheck s.dataInput s.strictPad = (ok, p)) :
    exec .unpad s = .next ((s.recordPadding ok p).complete (padCode ok)) := by
  have hexec := execUnpad_ok h
  rwa [hpad] at hexec

/-- UNPAD ends at its length check, or past it with PadCheck's answer (42_padding_validator.md R147). -/
theorem exec_unpad_cases (s : State) :
    (s.dataLengthOk = false ∧ exec .unpad s = .next (s.clearLengths.complete .invalidCiphertextLength))
      ∨ s.dataLengthOk = true ∧ ∃ ok p, padCheck s.dataInput s.strictPad = (ok, p)
          ∧ exec .unpad s = .next ((s.recordPadding ok p).complete (padCode ok)) := by
  cases h : s.dataLengthOk with
  | false => exact .inl ⟨rfl, execUnpad_badLength h⟩
  | true => exact .inr ⟨rfl, _, _, rfl, exec_unpad_of_lengthOk h rfl⟩

/-- Settles O52: p is at most 16 where the check passes, so the strip DATA_LEN - p does not wrap. -/
theorem unpadCommand : Obligations.UnpadCommand := by
  intro s hpos hmod hle r
  have hlength : s.dataLengthOk = true := s.dataLengthOk_iff.mpr ⟨hpos, hmod, hle⟩
  rcases hpad : r with ⟨ok, p⟩
  refine ⟨_, exec_unpad_of_lengthOk hlength hpad, rfl, ?passed, ?failed, rfl, rfl, rfl, rfl, rfl,
    (CommandFrame.recordPadding ok p).complete _, fun _ => rfl⟩
  case passed =>
    rintro rfl
    exact ⟨State.toNat_strip_add hlength hpad, rfl⟩
  case failed =>
    rintro rfl
    exact ⟨rfl, rfl⟩

/-- UNPAD changes no buffer byte (42_padding_validator.md R147, R148). -/
theorem exec_unpad_sameBuffers (s : State) : ∃ t, exec .unpad s = .next t ∧ SameBuffers s t := by
  obtain ⟨-, hexec⟩ | ⟨-, ok, p, -, hexec⟩ := exec_unpad_cases s <;> exact ⟨_, hexec, fun _ => rfl⟩

/-- KEYLEN is no operand of UNPAD (42_padding_validator.md R148). -/
theorem exec_unpad_withKeylen {s t : State} (h : exec .unpad s = .next t) (k : BitVec 8) :
    exec .unpad { s with keylen := k } = .next { t with keylen := k } := by
  obtain ⟨hbad, hexec⟩ | ⟨hlength, ok, p, hpad, hexec⟩ := exec_unpad_cases s
  · cases hexec.symm.trans h
    exact execUnpad_badLength hbad
  · cases hexec.symm.trans h
    exact exec_unpad_of_lengthOk (s := { s with keylen := k }) hlength hpad

/-- After DECRYPT the plaintext stands in DATA, where UNPAD judges it as DECRYPT_FINAL does (42_padding_validator.md
R148). -/
theorem exec_unpad_writePlaintext {s : State} (h : s.dataLengthOk = true) {ok : Bool} {p : Byte}
    (hpad : padCheck s.decryptedData s.strictPad = (ok, p)) :
    exec .unpad (s.writePlaintext.complete .ok)
      = .next (((s.writePlaintext.complete .ok).recordPadding ok p).complete (padCode ok)) := by
  have hinput : (s.writePlaintext.complete .ok).dataInput = s.decryptedData := State.bytesAt_storeBytes_dataBase h
  rw [← hinput] at hpad
  exact exec_unpad_of_lengthOk (s := s.writePlaintext.complete .ok) h hpad

/-- Settles O57: both commands judge the same plaintext, and both leave it in DATA where the check passes. -/
theorem unpadAfterDecryptIsDecryptFinal : Obligations.UnpadAfterDecryptIsDecryptFinal := by
  refine ⟨exec_unpad_sameBuffers, fun s hready => ?afterDecrypt, fun s k => ?anyKeylen⟩
  case afterDecrypt =>
    rcases hpad : padCheck s.decryptedData s.strictPad with ⟨ok, p⟩
    refine ⟨_, _, _, exec_decrypt_of_ready hready, exec_unpad_writePlaintext hready.dataLengthOk hpad,
      exec_decryptFinal_of_ready hready hpad, rfl, rfl, rfl, fun hcode => ?_⟩
    cases ok with
    | false => cases hcode
    | true => exact fun _ => rfl
  case anyKeylen =>
    obtain ⟨t, hexec, -⟩ := exec_unpad_sameBuffers s
    exact ⟨t, _, hexec, exec_unpad_withKeylen hexec k, rfl, rfl, rfl, fun _ => rfl⟩

/-! The lengths after a success -/

theorem eq_true_of_padCode_code {ok : Bool} (h : (padCode ok).code = 0) : ok = true := by
  cases ok
  · cases h
  · rfl

/-- DECRYPT_FINAL on illegal operands ends with the code of the check that failed (41_block_decryptor.md R134, R135). -/
theorem exec_decryptFinal_of_not_ready {s : State} (h : ¬ DecryptReady s) :
    ∃ c, exec .decryptFinal s = .next (s.clearLengths.complete c) ∧ c.code ≠ 0 := by
  rw [decryptReady_iff, not_and, Bool.not_eq_true] at h
  cases hkey : s.keyLengthOk with
  | false => exact ⟨_, execDecryptFinal_badKey hkey, by decide⟩
  | true => exact ⟨_, execDecryptFinal_badLength hkey (h hkey), by decide⟩

/-- A DECRYPT_FINAL or UNPAD that ends with OK passed its length check and a padding check, and recorded that one's strip
(42_padding_validator.md R146). -/
theorem recordedStrip_of_exec_ok {s t : State} {i : Instr} (hi : i = .decryptFinal ∨ i = .unpad)
    (hexec : exec i s = .next t) (hok : t.errcode = 0) :
    s.dataLengthOk = true ∧ ∃ b, padCheck b s.strictPad = (true, t.padLen)
      ∧ t.outLen = s.dataLen - t.padLen.setWidth 32 := by
  obtain rfl | rfl := hi
  · by_cases hready : DecryptReady s
    · rcases hpad : padCheck s.decryptedData s.strictPad with ⟨ok, p⟩
      cases (exec_decryptFinal_of_ready hready hpad).symm.trans hexec
      obtain rfl := eq_true_of_padCode_code hok
      exact ⟨hready.dataLengthOk, _, hpad, rfl⟩
    · obtain ⟨c, hfail, hcode⟩ := exec_decryptFinal_of_not_ready hready
      cases hfail.symm.trans hexec
      exact absurd hok hcode
  · obtain ⟨-, hfail⟩ | ⟨hlength, ok, p, hpad, hpast⟩ := exec_unpad_cases s
    · cases hfail.symm.trans hexec
      cases hok
    · cases hpast.symm.trans hexec
      obtain rfl := eq_true_of_padCode_code hok
      exact ⟨hlength, _, hpad, rfl⟩

/-- Settles O56: a passed check gives 1 <= p <= 16, and the strip loses nothing. -/
theorem lengthsAfterSuccess : Obligations.LengthsAfterSuccess := by
  intro s t i hi hexec hok
  obtain ⟨hlength, b, hpad, houtLen⟩ := recordedStrip_of_exec_ok hi hexec hok
  have hstrip := State.toNat_strip_add hlength hpad
  rw [← houtLen] at hstrip
  have hrange := padCheck_ok_range (congrArg Prod.fst hpad)
  rw [hpad] at hrange
  obtain ⟨hpos, hle⟩ : 1 ≤ t.padLen.toNat ∧ t.padLen.toNat ≤ 16 := hrange
  exact ⟨hpos, hle, by omega, by omega, hstrip⟩

end Sys2Proof.Machine
end

section
/-! PROOFS. The statements about exceptions, completion and the engine's states: the invariant of a step, acceptance
(60_exceptions.md R163), completion (R164, R165) and its codes (R155 to R158), the interrupt level (R167), acknowledgement
(R169), and when the engine's state and results change (R162, R170). -/

namespace Sys2Proof.Machine

open Sys2Proof

/-! The invariant: the buffers and OUT_LEN -/

/-- The part of the invariant that speaks of the buffers. A command keeps it before its completion too, where PROGRESS may be
recorded while the engine is Busy still. -/
structure State.BuffersFit (s : State) : Prop where
  legal : Config.legalDataBytes s.dataBytes
  memWf : s.mem.wf = true
  memBuffers : s.mem.inBuffers s.dataBytes = true
  outLenFits : s.outLen.toNat ≤ s.dataBytes

theorem State.Inv.buffersFit {s : State} (h : s.Inv) : s.BuffersFit :=
  ⟨h.legal, h.memWf, h.memBuffers, h.outLenFits⟩

/-- A store inside the buffers keeps them canonical. -/
theorem State.BuffersFit.storeBytes {s : State} (h : s.BuffersFit) {x : Nat} {bs : List Byte}
    (hin : ∀ i < bs.length, isBufferOffset s.dataBytes (x + i) = true) : (s.storeBytes x bs).BuffersFit :=
  ⟨h.legal, Memory.wf_writeBytes h.memWf x bs, Memory.inBuffers_writeBytes h.memBuffers x bs hin, h.outLenFits⟩

/-- The offsets of DATA[0..DATA_BYTES) are buffer offsets. -/
theorem isBufferOffset_data {n i : Nat} (h : i < n) : isBufferOffset n (dataBase + i) = true := by
  simp [isBufferOffset, h]

/-- PASS and SALT fill the offsets 0x080 to 0x0FF (10_state.md R23). -/
theorem isBufferOffset_operands {n x : Nat} (hlow : 0x080 ≤ x) (hhigh : x < 0x100) : isBufferOffset n x = true := by
  simp only [isBufferOffset, Bool.or_eq_true, Bool.and_eq_true, decide_eq_true_eq, passBase, saltBase, Config.passMax,
    Config.saltMax]
  omega

/-- A store of DATA_LEN bytes from DATA[0] on stays in the buffers where the length check passes. -/
theorem State.BuffersFit.storeData {s : State} (h : s.BuffersFit) (hd : s.dataLengthOk = true) {bs : List Byte}
    (hlen : bs.length = s.dataLen.toNat) : (s.storeBytes dataBase bs).BuffersFit := by
  obtain ⟨-, -, hle⟩ := s.dataLengthOk_iff.mp hd
  exact h.storeBytes fun i hi => isBufferOffset_data (by omega)

/-- The OUT_LEN a padding check records is within the buffer where the length check passes. -/
theorem State.BuffersFit.recordPadding {s : State} (h : s.BuffersFit) (hd : s.dataLengthOk = true) {b : List Byte}
    {strict ok : Bool} {p : Byte} (hpad : padCheck b strict = (ok, p)) : (s.recordPadding ok p).BuffersFit := by
  suffices hfits : (s.recordPadding ok p).outLen.toNat ≤ s.dataBytes from ⟨h.legal, h.memWf, h.memBuffers, hfits⟩
  obtain ⟨-, -, hle⟩ := s.dataLengthOk_iff.mp hd
  cases ok with
  | false => exact Nat.zero_le _
  | true => exact (Nat.le_add_right _ _).trans ((State.toNat_strip_add hd hpad).le.trans hle)

theorem State.BuffersFit.writePlaintext {s : State} (h : s.BuffersFit) (hd : s.dataLengthOk = true) :
    s.writePlaintext.BuffersFit := by
  obtain ⟨hlegal, hwf, hbuffers, -⟩ := h.storeData hd (State.length_decryptedData hd)
  exact ⟨hlegal, hwf, hbuffers, (s.dataLengthOk_iff.mp hd).2.2⟩

theorem State.BuffersFit.writeFinal {s : State} (h : s.BuffersFit) (hd : s.dataLengthOk = true) {b : List Byte}
    {strict ok : Bool} {p : Byte} (hpad : padCheck b strict = (ok, p)) : (s.writeFinal ok p).BuffersFit := by
  have hlen : (if ok then s.decryptedData else bytesOf s.dataLen.toNat 0x00).length = s.dataLen.toNat := by
    cases ok with
    | false => exact length_bytesOf _ _
    | true => exact State.length_decryptedData hd
  obtain ⟨hlegal, hwf, hbuffers, hfits⟩ := State.BuffersFit.recordPadding (h.storeData hd hlen) hd hpad
  exact ⟨hlegal, hwf, hbuffers, hfits⟩

theorem ResultCode.code_toNat_le (c : ResultCode) : c.code.toNat ≤ 5 := by
  cases c <;> decide

/-- A completion leaves the engine Idle with a defined code, so the buffers are all the invariant asks of the state
before. -/
theorem State.BuffersFit.complete {u : State} (h : u.BuffersFit) (c : ResultCode) : (u.complete c).Inv where
  legal := h.legal
  memWf := h.memWf
  memBuffers := h.memBuffers
  busyClear := nofun
  codeDefined := c.code_toNat_le
  outLenFits := h.outLenFits

/-- Every command ends in a state of the invariant. -/
theorem State.Inv.exec {s t : State} (h : s.Inv) {i : Instr} (hexec : exec i s = .next t) : t.Inv := by
  have hfit := h.buffersFit
  obtain ⟨u, c, hu, hcase⟩ := exec_cases i s
  cases hu.symm.trans hexec
  refine State.BuffersFit.complete ?_ c
  obtain rfl | rfl | rfl | ⟨hd, rfl | ⟨r, ⟨rfl, hr⟩ | ⟨rfl, hr⟩⟩⟩ := hcase
  · exact hfit
  · exact ⟨h.legal, h.memWf, h.memBuffers, Nat.zero_le _⟩
  · exact ⟨h.legal, h.memWf, h.memBuffers, h.outLenFits⟩
  · exact hfit.writePlaintext hd
  · exact hfit.writeFinal hd hr.symm
  · exact hfit.recordPadding hd hr.symm

/-! The invariant: the other moves -/

/-- The bytes of a buffer register that exists are buffer offsets. -/
theorem Reg.isBufferOffset_offset {n : Nat} (hlegal : Config.legalDataBytes n) {r : Reg} (hbuffer : r.isBufferWord = true)
    (hpresent : r.present n = true) {i : Nat} (hi : i < 4) : isBufferOffset n (r.offset + i) = true := by
  obtain ⟨h16, -, -⟩ := hlegal
  cases r
  case data j =>
    have hj : 4 * j < n := of_decide_eq_true hpresent
    rw [Reg.offset, Nat.add_assoc]
    exact isBufferOffset_data (by omega)
  case pass j | salt j =>
    simp only [Reg.offset, passBase, saltBase]
    exact isBufferOffset_operands (by omega) (by omega)
  all_goals cases hbuffer

theorem State.writeReg_of_idle {s : State} (h : s.busy = false) (r : Reg) (v : Word) :
    s.writeReg r v = s.writeIdle r v :=
  if_neg (by simp [h])

theorem State.Inv.accept {s : State} (h : s.Inv) (v : Word) : (s.accept v).Inv :=
  ⟨h.legal, h.memWf, h.memBuffers, fun _ => ⟨rfl, rfl, rfl⟩, Nat.zero_le _, h.outLenFits⟩

/-- A write of a register that exists keeps the invariant. -/
theorem State.Inv.writeReg {s : State} (h : s.Inv) {r : Reg} (hpresent : r.present s.dataBytes = true) (v : Word) :
    (s.writeReg r v).Inv := by
  cases hbusy : s.busy with
  | true =>
    obtain ⟨done, cmdOvf, wrBusy, hwrite, hdone⟩ := State.writeReg_busy hbusy r v
    obtain ⟨hd, he, hp⟩ := h.busyClear hbusy
    rw [hwrite]
    exact ⟨h.legal, h.memWf, h.memBuffers, fun _ => ⟨hdone hd, he, hp⟩, h.codeDefined, h.outLenFits⟩
  | false =>
    have hnone : s.pcmd = none := State.busy_eq_false_iff.mp hbusy
    rw [State.writeReg_of_idle hbusy]
    cases hbuffer : r.isBufferWord with
    | true =>
      rw [s.writeIdle_bufferWord hbuffer]
      have hfit := h.buffersFit.storeBytes (x := r.offset) (bs := le32bytes v) fun i hi =>
        Reg.isBufferOffset_offset h.legal hbuffer hpresent hi
      exact ⟨hfit.legal, hfit.memWf, hfit.memBuffers, h.busyClear, h.codeDefined, hfit.outLenFits⟩
    | false =>
      cases r
      case cmd => exact h.accept v
      case pass | salt | data => cases hbuffer
      all_goals
        rw [State.writeIdle]
        exact ⟨h.legal, h.memWf, h.memBuffers, by simp [State.busy, hnone], h.codeDefined, h.outLenFits⟩

/-- A transaction keeps the invariant. -/
theorem State.Inv.busTransaction {s t : State} (h : s.Inv) {x : Transaction} (hx : s.busTransaction x = .next t) :
    t.Inv := by
  obtain ⟨resp, d, rfl⟩ | ⟨d, rfl⟩ | ⟨off, r, v, -, htarget, rfl⟩ := State.busTransaction_next hx
  · exact ⟨h.legal, h.memWf, h.memBuffers, h.busyClear, h.codeDefined, h.outLenFits⟩
  · exact ⟨h.legal, h.memWf, h.memBuffers, h.busyClear, h.codeDefined, h.outLenFits⟩
  · obtain ⟨-, h4, hreg⟩ := busTarget_some htarget
    obtain ⟨hlegal, hwf, hbuffers, hclear, hcode, hfits⟩ := h.writeReg (regAt_some h4 hreg).2 v
    exact ⟨hlegal, hwf, hbuffers, hclear, hcode, hfits⟩

theorem State.Inv.resetEvent {s : State} (h : s.Inv) : s.resetEvent.Inv :=
  ⟨h.legal, rfl, rfl, nofun, Nat.zero_le _, Nat.zero_le _⟩

theorem State.Inv.withPending {s : State} (h : s.Inv) (es : List InputEvent) : State.Inv { s with pending := es } :=
  ⟨h.legal, h.memWf, h.memBuffers, h.busyClear, h.codeDefined, h.outLenFits⟩

/-- Settles O29: each of the moves a step can make keeps the invariant. -/
theorem everyStepKeepsTheInvariant : Obligations.EveryStepKeepsTheInvariant := by
  intro s t h hstep
  obtain ⟨u, e, hu, hmove⟩ := step_next hstep
  have hinv : u.Inv := by
    obtain ⟨rfl, -, -⟩ | ⟨rest, -, rfl⟩ := hu
    · exact h
    · exact h.withPending rest
  obtain ⟨-, -, rfl⟩ | ⟨v, -, -, hexec⟩ | ⟨-, rfl⟩ | ⟨x, -, hx⟩ | ⟨a, -, -, rfl⟩ := hmove
  · exact hinv
  · exact hinv.exec hexec
  · exact hinv.resetEvent
  · exact hinv.busTransaction hx
  · exact hinv

/-! What a command writes -/

/-- What command i can have written from s to u, its completion left out. -/
structure CommandWrites (i : Instr) (s u : State) : Prop where
  frame : CommandFrame s u
  key : i = .derive ∨ u.key = s.key ∧ u.keylen = s.keylen
  buffers : i = .decrypt ∨ i = .decryptFinal ∨ SameBuffers s u
  lengths : i = .decrypt ∨ i = .decryptFinal ∨ i = .unpad ∨ u.outLen = s.outLen ∧ u.padLen = s.padLen
  progress : i = .derive ∨ i = .decrypt ∨ i = .decryptFinal ∨ u.progress = s.progress

theorem CommandWrites.refl (i : Instr) (s : State) : CommandWrites i s s :=
  ⟨.refl s, .inr ⟨rfl, rfl⟩, .inr (.inr fun _ => rfl), .inr (.inr (.inr ⟨rfl, rfl⟩)), .inr (.inr (.inr rfl))⟩

theorem CommandWrites.clearLengths {i : Instr} (hi : i = .decrypt ∨ i = .decryptFinal ∨ i = .unpad) (s : State) :
    CommandWrites i s s.clearLengths :=
  ⟨.clearLengths, .inr ⟨rfl, rfl⟩, .inr (.inr fun _ => rfl), hi.imp_right (Or.imp_right .inl), .inr (.inr (.inr rfl))⟩

theorem CommandWrites.writeDerivedKey (s : State) : CommandWrites .derive s s.writeDerivedKey :=
  ⟨.writeDerivedKey, .inl rfl, .inr (.inr fun _ => rfl), .inr (.inr (.inr ⟨rfl, rfl⟩)), .inl rfl⟩

theorem CommandWrites.writePlaintext {s : State} (hd : s.dataLengthOk = true) :
    CommandWrites .decrypt s s.writePlaintext :=
  ⟨.writePlaintext hd, .inr ⟨rfl, rfl⟩, .inl rfl, .inl rfl, .inr (.inl rfl)⟩

theorem CommandWrites.writeFinal {s : State} (hd : s.dataLengthOk = true) (ok : Bool) (p : Byte) :
    CommandWrites .decryptFinal s (s.writeFinal ok p) :=
  ⟨.writeFinal hd ok p, .inr ⟨rfl, rfl⟩, .inr (.inl rfl), .inr (.inl rfl), .inr (.inr (.inl rfl))⟩

theorem CommandWrites.recordPadding (s : State) (ok : Bool) (p : Byte) :
    CommandWrites .unpad s (s.recordPadding ok p) :=
  ⟨.recordPadding ok p, .inr ⟨rfl, rfl⟩, .inr (.inr fun _ => rfl), .inr (.inr (.inl rfl)), .inr (.inr (.inr rfl))⟩

theorem padCode_mem_allowedCodes (ok : Bool) :
    (padCode ok).code ∈ allowedCodes .decryptFinal ∧ (padCode ok).code ∈ allowedCodes .unpad := by
  cases ok <;> decide

/-- Every command writes what its rule names, and completes with a code of its own (60_exceptions.md R156, R164). -/
theorem exec_completes (i : Instr) (s : State) :
    ∃ u c, exec i s = .next (State.complete u c) ∧ CommandWrites i s u ∧ c.code ∈ allowedCodes i := by
  cases i with
  | derive =>
    by_cases hready : DeriveReady s
    · exact ⟨_, _, exec_derive_of_ready hready, .writeDerivedKey s, by decide⟩
    · exact ⟨_, _, exec_derive_of_not_ready hready, .refl _ s, by decide⟩
  | decrypt =>
    cases hk : s.keyLengthOk with
    | false => exact ⟨_, _, execDecrypt_badKey hk, .clearLengths (.inl rfl) s, by decide⟩
    | true =>
      cases hd : s.dataLengthOk with
      | false => exact ⟨_, _, execDecrypt_badLength hk hd, .clearLengths (.inl rfl) s, by decide⟩
      | true => exact ⟨_, _, execDecrypt_ok hk hd, .writePlaintext hd, by decide⟩
  | decryptFinal =>
    cases hk : s.keyLengthOk with
    | false => exact ⟨_, _, execDecryptFinal_badKey hk, .clearLengths (.inr (.inl rfl)) s, by decide⟩
    | true =>
      cases hd : s.dataLengthOk with
      | false => exact ⟨_, _, execDecryptFinal_badLength hk hd, .clearLengths (.inr (.inl rfl)) s, by decide⟩
      | true => exact ⟨_, _, execDecryptFinal_ok hk hd, .writeFinal hd _ _, (padCode_mem_allowedCodes _).1⟩
  | unpad =>
    obtain ⟨-, hexec⟩ | ⟨-, ok, p, -, hexec⟩ := exec_unpad_cases s
    · exact ⟨_, _, hexec, .clearLengths (.inr (.inr rfl)) s, by decide⟩
    · exact ⟨_, _, hexec, .recordPadding s ok p, (padCode_mem_allowedCodes ok).2⟩
  | illegal v => exact ⟨s, _, rfl, .refl _ s, List.mem_singleton_self _⟩

/-- Settles O34: the completion adds to `exec_completes` nothing but PCMD, DONE and ERRCODE. -/
theorem commandsChangeOnlyTheirResults : Obligations.CommandsChangeOnlyTheirResults := by
  intro i s
  obtain ⟨u, c, hexec, hwrites, -⟩ := exec_completes i s
  exact ⟨_, hexec, rfl, rfl, rfl, hwrites.frame.complete c, hwrites.key, hwrites.buffers, hwrites.lengths,
    hwrites.progress⟩

/-- Settles O53: the illegal word's meaning is the completion alone. -/
theorem illegalCommandWritesNothingElse : Obligations.IllegalCommandWritesNothingElse := by
  intro s v u hdecode
  rw [hdecode]
  rfl

/-! The result codes -/

/-- A core with a 32-byte key of zeros and the given bytes in DATA, DATA_LEN one block. -/
def oneBlockState (bs : List Byte) : State :=
  State.storeBytes { State.reset with keylen := 32, dataLen := 16 } dataBase bs

theorem oneBlockState_ready (bs : List Byte) : DecryptReady (oneBlockState bs) := by
  have hready : DecryptReady { State.reset with keylen := 32, dataLen := 16 } := by
    unfold DecryptReady
    decide
  exact hready

theorem dataInput_oneBlockState {bs : List Byte} (h : bs.length = 16) : (oneBlockState bs).dataInput = bs := by
  have hread := State.bytesAt_storeBytes { State.reset with keylen := 32, dataLen := 16 } dataBase bs
  rwa [h] at hread

/-- Any block is the plaintext of a core's data. -/
theorem decryptedData_oneBlockState {p : List Byte} (h : p.length = 16) :
    (oneBlockState (ecbEnc State.reset.key p)).decryptedData = p := by
  have hmod : p.length % 16 = 0 := by rw [h]
  rw [State.decryptedData, dataInput_oneBlockState ((length_ecbEnc _ hmod).trans h)]
  exact ecbDec_ecbEnc _ hmod

/-- One block that passes PadCheck and one that does not. -/
theorem padCheck_blocks (strict : Bool) :
    padCheck (bytesOf 16 16) strict = (true, 16) ∧ padCheck (bytesOf 16 0) strict = (false, 0) := by
  cases strict <;> decide

theorem exec_decryptFinal_oneBlockState {p : List Byte} (h : p.length = 16) {ok : Bool} {b : Byte}
    (hpad : padCheck p (oneBlockState (ecbEnc State.reset.key p)).strictPad = (ok, b)) :
    ∃ t, exec .decryptFinal (oneBlockState (ecbEnc State.reset.key p)) = .next t ∧ t.errcode = (padCode ok).code :=
  ⟨_, exec_decryptFinal_of_ready (oneBlockState_ready _) (by rwa [decryptedData_oneBlockState h]), rfl⟩

theorem exec_unpad_oneBlockState {p : List Byte} (h : p.length = 16) {ok : Bool} {b : Byte}
    (hpad : padCheck p (oneBlockState p).strictPad = (ok, b)) :
    ∃ t, exec .unpad (oneBlockState p) = .next t ∧ t.errcode = (padCode ok).code :=
  ⟨_, exec_unpad_of_lengthOk (oneBlockState_ready _).dataLengthOk (by rwa [dataInput_oneBlockState h]), rfl⟩

/-- Each code of a command occurs (60_exceptions.md R156). -/
theorem allowedCodes_occur (i : Instr) : ∀ c ∈ allowedCodes i, ∃ s t, exec i s = .next t ∧ t.errcode = c := by
  have hnoKey : State.reset.keylen.toNat ≠ 32 := by decide
  have hnoData : State.dataLengthOk { State.reset with keylen := 32 } = false := by decide
  have hpass := fun strict => (padCheck_blocks strict).1
  have hfail := fun strict => (padCheck_blocks strict).2
  cases i <;> simp only [allowedCodes, List.forall_mem_cons, List.not_mem_nil, false_imp_iff, implies_true, and_true]
  case derive =>
    have hready : DeriveReady { State.reset with passLen := 1, saltLen := 1, iter := 1, dklen := 1 } := by
      unfold DeriveReady
      decide
    have hnot : ¬ DeriveReady State.reset := (not_deriveReady_iff _).mpr (.inl rfl)
    exact ⟨⟨_, _, exec_derive_of_ready hready, rfl⟩, ⟨_, _, exec_derive_of_not_ready hnot, rfl⟩⟩
  case decrypt =>
    exact ⟨⟨_, _, exec_decrypt_of_ready (oneBlockState_ready []), rfl⟩,
      ⟨_, _, exec_of_badKeyLength (by simp) hnoKey, rfl⟩,
      ⟨_, _, exec_of_badDataLength (.inr ⟨rfl, .inl rfl⟩) hnoData, rfl⟩⟩
  case decryptFinal =>
    exact ⟨⟨_, exec_decryptFinal_oneBlockState (length_bytesOf 16 16) (hpass _)⟩,
      ⟨_, _, exec_of_badKeyLength (by simp) hnoKey, rfl⟩,
      ⟨_, _, exec_of_badDataLength (.inr ⟨rfl, .inr rfl⟩) hnoData, rfl⟩,
      ⟨_, exec_decryptFinal_oneBlockState (length_bytesOf 16 0) (hfail _)⟩⟩
  case unpad =>
    exact ⟨⟨_, exec_unpad_oneBlockState (length_bytesOf 16 16) (hpass _)⟩,
      ⟨_, _, exec_of_badDataLength (.inl rfl) hnoData, rfl⟩,
      ⟨_, exec_unpad_oneBlockState (length_bytesOf 16 0) (hfail _)⟩⟩
  case illegal v => exact ⟨State.reset, _, rfl, rfl⟩

/-- Settles O33: no other code by `exec_completes`, and each by a state that gives it. -/
theorem resultCodesOfEachCommand : Obligations.ResultCodesOfEachCommand := by
  refine ⟨fun i s => ?_, allowedCodes_occur⟩
  obtain ⟨u, c, hexec, -, hcode⟩ := exec_completes i s
  exact ⟨_, hexec, hcode⟩

/-! Acceptance and acknowledgement -/

/-- Settles O18: the write reaches CMD, whose write rule while Idle is acceptance. -/
theorem acceptanceOfAnyWord : Obligations.AcceptanceOfAnyWord := by
  intro s v _ hidle
  refine (State.busTransaction_write_offset (r := .cmd) rfl v).trans ?_
  rw [State.writeReg_of_idle hidle]
  rfl

/-- Settles O19: a write of any word to STATUS follows `State.writeStatus`, the words 2 and 0xE among them. -/
theorem acknowledgementClearsDone : Obligations.AcknowledgementClearsDone := by
  intro s v hlegal hidle
  have hstatus : ∀ w, s.busTransaction (.write 0x010 .word w) = .next ((s.writeStatus w).respond .okay none) := fun w =>
    (State.busTransaction_write_offset (r := .status) rfl w).trans (by rw [State.writeReg_status])
  refine ⟨hstatus v, ⟨_, hstatus _, ?_⟩, ⟨_, hstatus _, ?_⟩, _, acceptanceOfAnyWord s v hlegal hidle, rfl, rfl, rfl⟩
  · simp [State.irq]
  · simp [State.irq]

/-! The interrupt level -/

/-- The level is low where DONE is clear. -/
theorem State.irq_of_not_done {s : State} (h : s.done = false) : s.irq = false := by
  rw [State.irq, h, Bool.and_false]

/-- A CTRL write while Idle puts bit 1 of the word into the level. -/
theorem State.irq_writeIdle_ctrl (s : State) (v : Word) : (s.writeIdle .ctrl v).irq = (v.getLsbD 1 && s.done) := by
  simp [State.writeIdle, State.irq, State.irqEn]

/-- Settles O20: after a command DONE is set and CTRL kept; each other event sets or clears one of the two inputs of the
level. -/
theorem interruptLevel : Obligations.InterruptLevel := by
  intro s
  refine ⟨rfl, fun i => ?completion, fun hidle hdone => ?enable, ?acknowledge, fun hidle => ?disable, fun v hidle => ?accept,
    State.irq_of_not_done rfl⟩
  case completion =>
    obtain ⟨t, hexec, -, -, hdone, hframe, -⟩ := commandsChangeOnlyTheirResults i s
    exact ⟨t, hexec, by rw [State.irq, hdone, Bool.and_true, State.irqEn, hframe.ctrl, State.irqEn]⟩
  case enable =>
    rw [State.writeReg_of_idle hidle, State.irq_writeIdle_ctrl, hdone]
    rfl
  case acknowledge =>
    rw [State.writeReg_status]
    exact State.irq_of_not_done (by simp)
  case disable =>
    rw [State.writeReg_of_idle hidle, State.irq_writeIdle_ctrl]
    rfl
  case accept =>
    rw [State.writeReg_of_idle hidle]
    exact State.irq_of_not_done rfl

/-! The engine's turn -/

/-- Settles O21: the head of the queue, or the empty queue, gives the engine its turn. -/
theorem stepRunsThePendingCommand : Obligations.StepRunsThePendingCommand := by
  intro s v hpcmd
  exact ⟨fun hpending => (step_of_nil hpending).trans (State.engineTurn_busy hpcmd),
    fun _ hpending => (step_of_cons hpending).trans (State.engineTurn_busy hpcmd)⟩

/-- A row of 32 bits decodes as its word. -/
theorem decodeTableWord_32 (w : Nat) : decodeTableWord 32 w = some (decode (tableWord 32 w)) :=
  congrArg (fun v => some (decode v)) (le32_lanes (tableWord 32 w))

/-- A placed word runs next, whatever waits in the queue (log 9). -/
theorem step_withFetchWord (s : State) (nbits w : Nat) :
    step (s.withFetchWord nbits w) = exec (decode (tableWord nbits w)) (s.accept (tableWord nbits w)) := by
  obtain ⟨hnil, hcons⟩ := stepRunsThePendingCommand (s.withFetchWord nbits w) (tableWord nbits w) rfl
  cases hpending : s.pending with
  | nil =>
    have hqueue : engineFirst s.pending = s.pending := by rw [hpending, engineFirst]
    have hplaced : s.withFetchWord nbits w = s.accept (tableWord nbits w) := by
      rw [State.withFetchWord, hqueue]
      rfl
    rw [hnil (hqueue.trans hpending), hplaced]
  | cons e es =>
    have hqueue : engineFirst s.pending = .engine :: s.pending := by rw [hpending, engineFirst]
    exact hcons s.pending hqueue

/-- Settles O23: a number below 2^32 is the word of its 32 bits. -/
theorem placedWordRunsNext : Obligations.PlacedWordRunsNext := by
  intro s w hw
  have hword : tableWord 32 w = BitVec.ofNat 32 w := congrArg (BitVec.ofNat 32) (Nat.mod_eq_of_lt hw)
  rw [← hword]
  exact ⟨decodeTableWord_32 w, step_withFetchWord s 32 w⟩

/-! When the engine's state and results change -/

/-- A register write accepts a command, or leaves PCMD, ERRCODE and PROGRESS. -/
theorem State.writeReg_engine (s : State) (r : Reg) (v : Word) :
    (r = .cmd ∧ s.busy = false ∧ s.writeReg r v = s.accept v)
      ∨ (s.writeReg r v).pcmd = s.pcmd ∧ (s.writeReg r v).errcode = s.errcode
          ∧ (s.writeReg r v).progress = s.progress := by
  cases hbusy : s.busy with
  | true =>
    obtain ⟨_, _, _, hwrite, -⟩ := State.writeReg_busy hbusy r v
    rw [hwrite]
    exact .inr ⟨rfl, rfl, rfl⟩
  | false =>
    rw [State.writeReg_of_idle hbusy]
    cases r
    case cmd => exact .inl ⟨rfl, rfl, rfl⟩
    all_goals
      rw [State.writeIdle]
      exact .inr ⟨rfl, rfl, rfl⟩

/-- A transaction is an accepted CMD write, or leaves PCMD and the results (60_exceptions.md R163, R170). -/
theorem State.busTransaction_engine {s t : State} {x : Transaction} (h : s.busTransaction x = .next t) :
    (∃ v, x = .write 0x00C .word v ∧ s.busy = false ∧ t.pcmd = some v)
      ∨ t.pcmd = s.pcmd ∧ t.errcode = s.errcode ∧ t.outLen = s.outLen ∧ t.padLen = s.padLen
          ∧ t.progress = s.progress := by
  obtain ⟨_, _, rfl⟩ | ⟨_, rfl⟩ | ⟨off, r, v, rfl, htarget, rfl⟩ := State.busTransaction_next h
  · exact .inr ⟨rfl, rfl, rfl, rfl, rfl⟩
  · exact .inr ⟨rfl, rfl, rfl, rfl, rfl⟩
  · obtain ⟨rfl, hidle, haccept⟩ | ⟨hpcmd, herrcode, hprogress⟩ := s.writeReg_engine r v
    · obtain ⟨-, h4, hreg⟩ := busTarget_some htarget
      obtain rfl : 0x00C = off := (regAt_some h4 hreg).1
      exact .inl ⟨v, rfl, hidle, by rw [haccept]; rfl⟩
    · obtain ⟨-, -, -, -, -, houtLen, hpadLen⟩ := s.writeReg_own r v
      exact .inr ⟨hpcmd, herrcode, houtLen, hpadLen, hprogress⟩

/-- A step leaves PCMD as it is, ends Idle by a turn of the engine or by reset, or is an accepted CMD write. -/
theorem step_pcmd {s t : State} (h : step s = .next t) :
    t.pcmd = s.pcmd
      ∨ t.busy = false ∧ (s.pending = [] ∨ ∃ rest, s.pending = .engine :: rest ∨ s.pending = .reset :: rest)
      ∨ s.busy = false ∧ ∃ e rest v, s.pending = e :: rest ∧ s.portTransaction e = some (.write 0x00C .word v)
          ∧ t.pcmd = some v := by
  obtain ⟨u, e, hu, hmove⟩ := step_next h
  have hpcmd : u.pcmd = s.pcmd := by
    obtain ⟨rfl, -, -⟩ | ⟨rest, -, rfl⟩ := hu <;> rfl
  have hqueue : (e = .engine ∧ s.pending = []) ∨ ∃ rest, s.pending = e :: rest ∧ u = { s with pending := rest } :=
    hu.imp_left And.right
  obtain ⟨-, -, rfl⟩ | ⟨v, rfl, -, hexec⟩ | ⟨rfl, rfl⟩ | ⟨x, hport, hx⟩ | ⟨a, -, -, rfl⟩ := hmove
  · exact .inl hpcmd
  · obtain ⟨_, hexec', -, hidle, -⟩ := commandsChangeOnlyTheirResults (decode v) u
    cases hexec'.symm.trans hexec
    exact .inr (.inl ⟨hidle, hqueue.imp And.right fun ⟨rest, hpending, _⟩ => ⟨rest, .inl hpending⟩⟩)
  · exact .inr (.inl ⟨rfl, hqueue.imp And.right fun ⟨rest, hpending, _⟩ => ⟨rest, .inr hpending⟩⟩)
  · obtain ⟨v, rfl, hidle, haccept⟩ | ⟨hkept, -⟩ := State.busTransaction_engine hx
    · obtain ⟨rfl, -⟩ | ⟨rest, hpending, rfl⟩ := hqueue
      · cases hport
      · exact .inr (.inr ⟨hidle, e, rest, v, hpending, hport, haccept⟩)
    · exact .inl (hkept.trans hpcmd)
  · exact .inl hpcmd

/-- Settles O24: of the three cases of `step_pcmd` the second alone can end Idle from Busy, and the third alone Busy from
Idle. -/
theorem busyChangesOnlyAtAcceptanceAndCompletion : Obligations.BusyChangesOnlyAtAcceptanceAndCompletion := by
  intro s t hstep
  obtain hkept | ⟨htidle, hturn⟩ | ⟨hidle, haccept⟩ := step_pcmd hstep
  · have hsame : t.busy = s.busy := congrArg Option.isSome hkept
    exact ⟨fun hidle hbusy => by simp [hsame, hidle] at hbusy, fun hbusy hidle => by simp [hsame, hbusy] at hidle⟩
  · exact ⟨fun _ hbusy => by simp [htidle] at hbusy, fun _ _ => hturn⟩
  · exact ⟨fun _ _ => haccept, fun hbusy => by simp [hidle] at hbusy⟩

/-- Settles O25: acceptance needs an Idle engine, so it would change PCMD. -/
theorem resultsStayUntilNextAcceptance : Obligations.ResultsStayUntilNextAcceptance := by
  intro s t e rest hhost hpending hstep hpcmd
  rw [step_of_cons hpending] at hstep
  obtain ⟨x, -, htake⟩ | htake := State.takeInput_host (s := { s with pending := rest }) hhost
  · obtain ⟨v, -, hidle, haccept⟩ | ⟨-, hresults⟩ := State.busTransaction_engine (htake.symm.trans hstep)
    · have hnone : s.pcmd = none := State.busy_eq_false_iff.mp hidle
      rw [hpcmd, hnone] at haccept
      cases haccept
    · exact hresults
  · cases htake.symm.trans hstep
    exact ⟨rfl, rfl, rfl, rfl⟩

end Sys2Proof.Machine
end

section
/-! PROOFS. The statements about reset and hazards: the state after the reset event (70_reset_and_hazards.md R181 to R183), and
the completion of every accepted command (R198). -/

namespace Sys2Proof.Machine

open Sys2Proof

/-! Completion -/

/-- A turn of a Busy engine completes its command, whatever the command. -/
theorem State.engineTurn_completes {s : State} (hbusy : s.busy = true) :
    ∃ t, s.engineTurn = .next t ∧ t.busy = false ∧ t.done = true := by
  obtain ⟨v, hpcmd⟩ := Option.isSome_iff_exists.mp hbusy
  obtain ⟨u, c, hexec, -⟩ := exec_completes (decode v) s
  exact ⟨u.complete c, (State.engineTurn_busy hpcmd).trans hexec, rfl, rfl⟩

/-- Settles O27, by induction on the queue: a host input leaves the engine Busy with a shorter queue, and the first turn of the
engine, in the queue or at its end, completes the command. -/
theorem everyAcceptedCommandCompletes : Obligations.EveryAcceptedCommandCompletes := by
  intro s hbusy hpres
  induction hpending : s.pending generalizing s with
  | nil =>
    obtain ⟨t, hturn, hidle, hdone⟩ := State.engineTurn_completes hbusy
    exact ⟨1, t, le_rfl, run_next 0 ((step_of_nil hpending).trans hturn), hidle, hdone⟩
  | cons e rest ih =>
    rw [hpending] at hpres
    obtain ⟨⟨hreset, hfits⟩, hrest⟩ := List.forall_mem_cons.mp hpres
    by_cases hhost : e.isHost = true
    · obtain ⟨hs, htake, hqueue⟩ := State.takeInput_busy (s := { s with pending := rest }) hbusy hhost hfits
      have hstep : step s = .next (s.withHostSide hs) := (step_of_cons hpending).trans htake
      have hleft : (s.withHostSide hs).pending = rest := hqueue
      obtain ⟨k, t, hk, hrun, hdone⟩ := ih (s.withHostSide hs) hbusy (by rwa [hleft]) hleft
      exact ⟨k + 1, t, Nat.succ_le_succ hk, (run_next k hstep).trans hrun, hdone⟩
    · obtain rfl : e = .engine := by
        cases e with
        | engine => rfl
        | reset => exact absurd rfl hreset
        | host t | access a => exact absurd rfl hhost
      obtain ⟨t, hturn, hcompleted⟩ := State.engineTurn_completes (s := { s with pending := rest }) hbusy
      exact ⟨1, t, Nat.succ_le_succ (Nat.zero_le _), run_next 0 ((step_of_cons hpending).trans hturn), hcompleted⟩

/-! The state after reset -/

/-- Settles O28: the reset state is Idle, with an empty memory, OUT_LEN 0 and the default DATA_BYTES. -/
theorem resetStateMeetsTheInvariant : Obligations.ResetStateMeetsTheInvariant where
  legal := by decide
  memWf := rfl
  memBuffers := rfl
  busyClear := nofun
  codeDefined := Nat.zero_le _
  outLenFits := Nat.zero_le _

/-- After a reset padding is strict. -/
@[simp] theorem State.strictPad_resetEvent (s : State) : s.resetEvent.strictPad = true := by
  simp [State.strictPad]

/-- After a reset the interrupt is not enabled. -/
@[simp] theorem State.irqEn_resetEvent (s : State) : s.resetEvent.irqEn = false := by
  simp [State.irqEn]

/-- STATUS reads 0 after a reset: no flag is set and no code is recorded. -/
theorem State.readReg_status_resetEvent (s : State) : s.resetEvent.readReg .status = 0 := by
  simp [State.readReg, State.statusWord]

/-- A decrypt command on a core that was reset fails its key check: KEYLEN is 0 (70_reset_and_hazards.md R182). -/
theorem exec_resetEvent_of_decrypt (s : State) {i : Instr} (hi : i ∈ [Instr.decrypt, Instr.decryptFinal]) :
    ∃ u, exec i s.resetEvent = .next u ∧ u.errcode = 2 := by
  have hkeylen : s.resetEvent.keylen.toNat ≠ 32 := by simp
  exact ⟨_, exec_of_badKeyLength hi hkeylen, rfl⟩

/-- Settles O30: the step is the reset event, and each value it gives is the field's in `State.reset`. -/
theorem resetClearsRegistersAndKey : Obligations.ResetClearsRegistersAndKey := by
  intro s rest hpending
  refine ⟨_, step_of_cons hpending, rfl, rfl, rfl, State.strictPad_resetEvent _, State.irqEn_resetEvent _,
    State.irq_of_not_done rfl, rfl, State.readReg_status_resetEvent _, rfl, rfl, rfl, rfl, rfl, rfl, rfl, rfl, rfl, rfl, rfl,
    rfl, rfl, fun i => ?key, fun i hi => exec_resetEvent_of_decrypt _ hi⟩
  case key => exact Vector.getElem_replicate i.isLt

/-- A buffer byte after a reset is that reset's draw. -/
theorem State.byteAt_resetEvent (s : State) (x : Nat) :
    s.resetEvent.byteAt x = Config.bufferDraw (s.resetIndex + 1) x := rfl

/-- A lane of a buffer word after a reset is the draw of its byte. -/
theorem State.lane_bufferWord_resetEvent (s : State) (x : Nat) (k : Fin 4) :
    lane (s.resetEvent.bufferWord x) k.val = Config.bufferDraw (s.resetIndex + 1) (x + k.val) :=
  (State.lane_bufferWord _ x k).trans (s.byteAt_resetEvent _)

/-- Settles O31: the words of PASS, SALT and DATA are buffer words. -/
theorem buffersAreDrawsAfterReset : Obligations.BuffersAreDrawsAfterReset := by
  intro s rest hpending
  have hlane := State.lane_bufferWord_resetEvent { s with pending := rest }
  exact ⟨_, step_of_cons hpending, rfl, State.byteAt_resetEvent { s with pending := rest }, fun k =>
    ⟨fun j => ⟨hlane (passBase + 4 * j.val) k, hlane (saltBase + 4 * j.val) k⟩, fun j => hlane (dataBase + 4 * j) k⟩⟩

end Sys2Proof.Machine
end

section
/-! PROOFS. The statement about what the registers read as (10_state.md R24 to R42). -/

namespace Sys2Proof.Machine

open Sys2Proof

/-! The values the registers read as -/

/-- A two-bit number is the sum of its bits, each at its weight. -/
theorem toNat_eq_sum_bits (c : BitVec 2) :
    c.toNat = (if c.getLsbD 0 then 1 else 0) + 2 * (if c.getLsbD 1 then 1 else 0) := by
  revert c
  decide

/-- CTRL reads STRICT_PAD at bit 0 and IRQ_EN at bit 1, and nothing above them (10_state.md R26). -/
theorem State.toNat_readReg_ctrl (s : State) :
    (s.readReg .ctrl).toNat = (if s.strictPad then 1 else 0) + 2 * (if s.irqEn then 1 else 0) :=
  (BitVec.toNat_setWidth_of_le (by decide)).trans (toNat_eq_sum_bits s.ctrl)

/-- Settles O11: CTRL is the sum of its two bits, a byte field keeps its number when it is widened, and each other register reads
as its constant or its stored word. -/
theorem registersReadZeroExtended : Obligations.RegistersReadZeroExtended := by
  intro s
  have hbyte : ∀ field : BitVec 8, (field.setWidth 32).toNat = field.toNat :=
    fun _ => BitVec.toNat_setWidth_of_le (by decide)
  exact ⟨rfl, rfl, rfl, s.toNat_readReg_ctrl, hbyte s.passLen, hbyte s.saltLen, hbyte s.dklen, hbyte s.keylen,
    hbyte s.padLen, rfl, rfl, rfl, rfl⟩

end Sys2Proof.Machine
end
